-- ==== Sys2Proof/Word.lean ====
section
/-! DEFINITION. Sys2Proof/Word.lean: the word types of the block, one per format of spec/30_encoding.md rule R50,
with the byte, the character and the ROM index. Every value is unsigned; bit 0 is the least significant (R6). -/

namespace Sys2Proof

/-- An input byte (R4 BYTE = 8). -/
abbrev Byte := BitVec 8

/-- An output character: its 8-bit code (R4 CHARW = 8). -/
abbrev Char8 := BitVec 8

/-- An alphabet index, a 6-bit field of the block value (R4 SEXTET = 6, R30). -/
abbrev Sextet := BitVec 6

/-- V-format: the 24-bit block value (R51). -/
abbrev VWord := BitVec 24

/-- B-format: BlockCodec's input, NB and three byte lanes (R52). -/
abbrev BWord := BitVec 26

/-- G-format: BlockCodec's output, four characters (R52). -/
abbrev GWord := BitVec 32

/-- R-format: the source's read response, ERR, LEN and three byte lanes (R53). -/
abbrev RWord := BitVec 27

/-- W-format: the sink's write response (R54). -/
abbrev WWord := BitVec 1

/-- C-format: the host's command (R55). -/
abbrev CWord := BitVec 1

/-- Q-format: the encoder's read request (R56). -/
abbrev QWord := BitVec 1

/-- O-format: the character the encoder offers to the sink (R56). -/
abbrev OWord := BitVec 8

end Sys2Proof
end

