-- ==== Sys2Proof/Config.lean ====
section
/-! DEFINITION. Sys2Proof/Config.lean: the fixed constants of spec/00_scope.md rule R4, and the FREE VALUES: what the
spec leaves to the environment or calls unspecified. A free value has no body: nothing can be proved of what it is,
so a statement about it holds whatever it is. Each is applied to the counter State.draws, so that every occurrence
is a value of its own (assumption log 1, 4, 5, 6). -/

namespace Sys2Proof.Config

/-- CHUNK: most input bytes per read and per block (R4). -/
def chunkBytes : Nat := 3

/-- GROUP: output characters per block (R4). -/
def groupChars : Nat := 4

/-- LINE_GROUPS: groups per full output line (R4). -/
def lineGroups : Nat := 19

/-- LINE_CHARS: characters per full output line (R4). -/
def lineChars : Nat := 76

/-- LINE_BYTES: input bytes per full output line (R4). -/
def lineBytes : Nat := 57

/-- PAD: the padding character `=` (R4, R58). -/
def pad : Char8 := 0x3D

/-- CR: the first character of the line terminator (R4, R58). -/
def cr : Char8 := 0x0D

/-- LF: the second character of the line terminator (R4, R58). -/
def lf : Char8 := 0x0A

/-- WFAIL_APPENDS (U3, D9): whether the character on offer in a write that fails, or that a reset withdraws, is in
the sink after all. One draw per occurrence. -/
opaque wfailAppends : Nat → Bool

/-- How many bytes the source lost in a failed read, or in a read that a reset withdraws (U4, U3). -/
opaque lostBytes : Nat → Nat

/-- What IBUF[0..2] hold after a reset: unspecified (R24, U6). -/
opaque resetIbuf : Nat → BitVec 24

/-- What N holds after a reset: unspecified (R24, U6). -/
opaque resetN : Nat → BitVec 2

/-- What OBUF[0..3] hold after a reset: unspecified (R24, U6). -/
opaque resetObuf : Nat → BitVec 32

/-- What K holds after a reset: unspecified (R24, U6). -/
opaque resetK : Nat → BitVec 2

end Sys2Proof.Config
end

