-- ==== Sys2Proof/Syntax.lean ====
section
/-! DEFINITION. Sys2Proof/Syntax.lean: the eight formats (R50), the operations (R60, one constructor per row of
spec/opcode_table.json) and the words as they stand on a port. A don't-care field of an encoding (R61 d) is no
operand, so no constructor carries one. -/

namespace Sys2Proof

/-- The eight formats of R50. V and G never reach the decoder: V is internal, G is a result. -/
inductive Format where
  | v | b | g | r | w | c | q | o
  deriving DecidableEq, Repr

/-- The width of every word of a format (R50). -/
def Format.width : Format → Nat
  | .v => 24
  | .b => 26
  | .g => 32
  | .r => 27
  | .w => 1
  | .c => 1
  | .q => 1
  | .o => 8

/-- Who puts a word on its port (R60, R141). `nobody`: the reserved BLK0. -/
inductive Issuer where
  | host | encoder | source | sink | streamEncoder | nobody
  deriving DecidableEq, Repr

/-- The operations of R60. -/
inductive Instr where
  /-- START: begin an invocation (R93). -/
  | start
  /-- RDREQ: the encoder asks the source for up to 3 bytes (R94). -/
  | rdreq
  /-- ENC3: a read response of three bytes (R95). -/
  | enc3 (b0 b1 b2 : Byte)
  /-- ENC2: a read response of two bytes (R96). -/
  | enc2 (b0 b1 : Byte)
  /-- ENC1: a read response of one byte (R97). -/
  | enc1 (b0 : Byte)
  /-- END: a read response of no byte (R98). -/
  | endInput
  /-- RDFAIL: the read failed (R99). -/
  | rdfail
  /-- PUTC: the encoder offers a character of its group (R100). -/
  | putc (c : Char8)
  /-- PUTCR: the encoder offers CR (R101). -/
  | putcr
  /-- PUTLF: the encoder offers LF (R102). -/
  | putlf
  /-- WACK: the sink accepted the offered character (R103). -/
  | wack
  /-- WFAIL: the write failed (R104). -/
  | wfail
  /-- BLK3: three bytes to four data characters (R74). -/
  | blk3 (b0 b1 b2 : Byte)
  /-- BLK2: two bytes to three data characters and one pad (R75). -/
  | blk2 (b0 b1 : Byte)
  /-- BLK1: one byte to two data characters and two pads (R76). -/
  | blk1 (b0 : Byte)
  /-- BLK0: reserved (R77). -/
  | blk0
  deriving DecidableEq, Repr

/-- The format of an operation (R60). -/
def Instr.format : Instr → Format
  | .start => .c
  | .rdreq => .q
  | .enc3 _ _ _ => .r
  | .enc2 _ _ => .r
  | .enc1 _ => .r
  | .endInput => .r
  | .rdfail => .r
  | .putc _ => .o
  | .putcr => .o
  | .putlf => .o
  | .wack => .w
  | .wfail => .w
  | .blk3 _ _ _ => .b
  | .blk2 _ _ => .b
  | .blk1 _ => .b
  | .blk0 => .b

/-- The agent that issues an operation (R60). -/
def Instr.issuer : Instr → Issuer
  | .start => .host
  | .rdreq => .encoder
  | .enc3 _ _ _ => .source
  | .enc2 _ _ => .source
  | .enc1 _ => .source
  | .endInput => .source
  | .rdfail => .source
  | .putc _ => .encoder
  | .putcr => .encoder
  | .putlf => .encoder
  | .wack => .sink
  | .wfail => .sink
  | .blk3 _ _ _ => .streamEncoder
  | .blk2 _ _ => .streamEncoder
  | .blk1 _ => .streamEncoder
  | .blk0 => .nobody

/-- The read responses of R60. -/
def Instr.isReadResponse : Instr → Bool
  | .start => false
  | .rdreq => false
  | .enc3 _ _ _ => true
  | .enc2 _ _ => true
  | .enc1 _ => true
  | .endInput => true
  | .rdfail => true
  | .putc _ => false
  | .putcr => false
  | .putlf => false
  | .wack => false
  | .wfail => false
  | .blk3 _ _ _ => false
  | .blk2 _ _ => false
  | .blk1 _ => false
  | .blk0 => false

/-- The write responses of R60. -/
def Instr.isWriteResponse : Instr → Bool
  | .start => false
  | .rdreq => false
  | .enc3 _ _ _ => false
  | .enc2 _ _ => false
  | .enc1 _ => false
  | .endInput => false
  | .rdfail => false
  | .putc _ => false
  | .putcr => false
  | .putlf => false
  | .wack => true
  | .wfail => true
  | .blk3 _ _ _ => false
  | .blk2 _ _ => false
  | .blk1 _ => false
  | .blk0 => false

/-- A word on a port. Which port it crosses is part of it: the same bits are another operation on another port
(R50, R60), and nothing but the port tells START, RDREQ and WFAIL apart. -/
inductive PortWord where
  | c (w : CWord)
  | q (w : QWord)
  | r (w : RWord)
  | w (w : WWord)
  | b (w : BWord)
  | o (w : OWord)
  deriving DecidableEq, Repr

/-- The format of a word on a port. -/
def PortWord.format : PortWord → Format
  | .c _ => .c
  | .q _ => .q
  | .r _ => .r
  | .w _ => .w
  | .b _ => .b
  | .o _ => .o

/-- Why a port word is no operation. -/
inductive Reject where
  /-- C-format 0: "the absence of a command and is no event" (R55). -/
  | noCommand
  /-- Q-format 0: no request stands on the port (R56). -/
  | noRequest
  /-- One of the 189 O-format values that are never offered (R56, R61 f). -/
  | neverOffered
  deriving DecidableEq, Repr

/-- What the decoder answers. -/
inductive Decoded where
  | instr (i : Instr)
  | reject (r : Reject)
  deriving DecidableEq, Repr

end Sys2Proof
end

