-- ==== Sys2Proof/Machine/State.lean ====
section
/-! DEFINITION. Sys2Proof/Machine/State.lean: the state of the encoder (R10 to R18), of its environment (R22, R141),
the reasons a step can stop, and the machine right after reset (R24). Plain data throughout. -/

namespace Sys2Proof.Machine

open Sys2Proof

/-- The seven values of PHASE (R17). The eighth code, 7, is no value of the type (U2). -/
inductive Phase where
  /-- After reset, no invocation yet. -/
  | idle
  /-- A source read is requested and not yet answered. -/
  | read
  /-- OBUF[K] is offered to the sink. -/
  | emit
  /-- CR is offered to the sink. -/
  | cr
  /-- LF is offered to the sink. -/
  | lf
  /-- The invocation ended in success. -/
  | done
  /-- The invocation ended in failure. -/
  | failed
  deriving DecidableEq, Repr

/-- The values of CAUSE (R18). The code 3, reserved and never produced, is no value of the type (U2). -/
inductive Cause where
  | none
  | readFailure
  | writeFailure
  deriving DecidableEq, Repr

/-- The lengths a chunk can have, the domain of `encode_block` (R70). Zero is no value of the type (U1). -/
inductive ChunkLen where
  | one | two | three
  deriving DecidableEq, Repr

/-- IBUF[0..2] (R11). -/
structure Chunk where
  b0 : Byte
  b1 : Byte
  b2 : Byte
  deriving DecidableEq, Repr

/-- A group of four characters, c0 the one written first: the type of OBUF[0..3] (R13) and of a block result (R70). -/
structure Group where
  c0 : Char8
  c1 : Char8
  c2 : Char8
  c3 : Char8
  deriving DecidableEq, Repr

/-- One thing the environment does: a line of a script (R63), or the host attaching a source or a sink (R141, R142,
R153). Words of the Q-, O- and B-format are trace lines (R63): they run where the block drives its port so. -/
inductive Line where
  /-- The reset event (R150). -/
  | reset
  /-- A word crosses a port. -/
  | word (w : PortWord)
  /-- The host attaches a source that still holds these bytes (R153). -/
  | attachSource (bytes : List Byte)
  /-- The host attaches a sink that has accepted these characters so far (R153). -/
  | attachSink (chars : List Char8)
  deriving DecidableEq, Repr

/-- The machine: the encoder's registers (R10), the environment's SRC and SNK (R22), and three fields that are the
MODEL'S OWN: what the environment does next, what BlockCodec last returned, and how many free values are spent. -/
structure State where
  /-- IBUF (R11). -/
  ibuf : Chunk
  /-- N, 2 bits (R12). -/
  n : BitVec 2
  /-- OBUF (R13). -/
  obuf : Group
  /-- K, 2 bits (R14). -/
  k : BitVec 2
  /-- CNT, 5 bits (R15). -/
  cnt : BitVec 5
  /-- EOI, 1 bit (R16). -/
  eoi : Bool
  /-- PHASE (R17). -/
  phase : Phase
  /-- CAUSE (R18). -/
  cause : Cause
  /-- SRC: the bytes the source has not delivered yet, in order (R22). Environment. -/
  src : List Byte
  /-- SNK: the characters the sink has accepted, in order (R22). Environment. -/
  snk : List Char8
  /-- What the environment does next, in order (R63). The model's own: assumption log 2. -/
  script : List Line
  /-- The G-format word of BlockCodec's last evaluation, none before the first (R70). The model's own: log 7. -/
  gout : Option GWord
  /-- How many free values have been drawn. The model's own: assumption log 6. -/
  draws : Nat
  deriving DecidableEq, Repr

/-- Why a step has no next state. The block itself has no fault (R133): both are pairs of PHASE and event that
"cannot occur", to which "a model gives ... no step" (R116). -/
inductive Fault where
  /-- A read or write response answers a request the encoder has not made (R116; "a script error, not an event",
  R63). Raised by the meanings of ENC3, ENC2, ENC1, END, RDFAIL, WACK and WFAIL. Safe: the model stops where the spec
  has no run. -/
  | unrequested
  /-- A trace line claims that the encoder drives a request or a character which it does not drive in this state
  (R94, R100, R101, R102: "asserted iff"). Raised by the meanings of RDREQ, PUTC, PUTCR and PUTLF. Safe: the model
  stops where the spec has no run. -/
  | notDriven
  deriving DecidableEq, Repr

/-- Why an operation has no meaning. -/
inductive Refusal where
  /-- No meaning has been written for the operation. Raised by exec's refused arms alone; none is left. Safe. -/
  | notModelled (mnemonic : String)
  /-- BLK0: `encode_block` has no value for n = 0; "a model ... refuses n = 0" (R77, U1). Raised by BLK0. Safe. -/
  | zeroByteBlock
  /-- An O-format value outside the 67 of R56, which is never offered (R61 f), so it is no operation. Raised by step.
  Safe. -/
  | neverOffered
  deriving DecidableEq, Repr

/-- IBUF after a reset: unspecified (R24), the free value of draw `d` (assumption log 1). -/
def unspecifiedChunk (d : Nat) : Chunk :=
  { b0 := (Config.resetIbuf d).extractLsb' 16 8
    b1 := (Config.resetIbuf d).extractLsb' 8 8
    b2 := (Config.resetIbuf d).extractLsb' 0 8 }

/-- OBUF after a reset: unspecified (R24), the free value of draw `d` (assumption log 1). -/
def unspecifiedGroup (d : Nat) : Group :=
  { c0 := (Config.resetObuf d).extractLsb' 24 8
    c1 := (Config.resetObuf d).extractLsb' 16 8
    c2 := (Config.resetObuf d).extractLsb' 8 8
    c3 := (Config.resetObuf d).extractLsb' 0 8 }

/-- The machine right after reset (R24, R150): PHASE = IDLE, CNT = 0, EOI = 0, CAUSE = 0; IBUF, N, OBUF and K hold the
free values of draw 0. No source or sink is attached yet, so both are empty (assumption log 3), and nothing is
scripted. -/
def State.reset : State :=
  { ibuf := unspecifiedChunk 0
    n := Config.resetN 0
    obuf := unspecifiedGroup 0
    k := Config.resetK 0
    cnt := 0
    eoi := false
    phase := .idle
    cause := .none
    src := []
    snk := []
    script := []
    gout := none
    draws := 1 }

end Sys2Proof.Machine
end

