-- ==== Sys2Proof/Machine/Flags.lean ====
section
/-! DEFINITION. Sys2Proof/Machine/Flags.lean: the flag and counter tests (R15, R16, R103), the numeric codes of PHASE
and CAUSE (R17, R18), and the status outputs, which are functions of PHASE (R19). -/

namespace Sys2Proof.Machine

open Sys2Proof

/-- EOI after a read response of `len` bytes: set by fewer than 3, else unchanged (R16, R107). -/
def eoiAfterRead (len : Nat) (eoi : Bool) : Bool := if len < Config.chunkBytes then true else eoi

/-- The inner-loop test on the new count, after a group was written: read again, or close the line (R103). -/
def lineGoesOn (cnt : BitVec 5) (eoi : Bool) : Bool := cnt.toNat + 1 < Config.lineGroups && !eoi

/-- Whether a PHASE accepts START (R93). -/
def Phase.acceptsStart : Phase → Bool
  | .idle => true
  | .read => false
  | .emit => false
  | .cr => false
  | .lf => false
  | .done => true
  | .failed => true

/-- The 3-bit code of PHASE (R17). -/
def Phase.code : Phase → BitVec 3
  | .idle => 0
  | .read => 1
  | .emit => 2
  | .cr => 3
  | .lf => 4
  | .done => 5
  | .failed => 6

/-- The 2-bit code of CAUSE, as the host reads it (R18). -/
def Cause.code : Cause → BitVec 2
  | .none => 0
  | .readFailure => 1
  | .writeFailure => 2

/-- The status output `busy` (R19). -/
def State.busy (s : State) : Bool :=
  match s.phase with
  | .idle => false
  | .read => true
  | .emit => true
  | .cr => true
  | .lf => true
  | .done => false
  | .failed => false

/-- The status output `done` (R19). -/
def State.doneOut (s : State) : Bool := s.phase == .done

/-- The status output `fail` (R19). -/
def State.failOut (s : State) : Bool := s.phase == .failed

end Sys2Proof.Machine
end

