-- ==== Sys2Proof/WellFormed.lean ====
section
/-! DEFINITION. Sys2Proof/WellFormed.lean: which terms of Instr the port formats can carry. The field types already
bound every operand but one: the character of PUTC is one of 65 codes (R56, R60). -/

namespace Sys2Proof

/-- Whether an 8-bit code is one of the 64 codes of the alphabet: the ranges of R57. -/
def isAlphabetCode (c : Char8) : Bool :=
  (0x41 ≤ c.toNat && c.toNat ≤ 0x5A) || (0x61 ≤ c.toNat && c.toNat ≤ 0x7A) ||
    (0x30 ≤ c.toNat && c.toNat ≤ 0x39) || c == 0x2B || c == 0x2F

/-- Whether a code may be the character of PUTC: the 64 codes of the ROM and PAD (R56). -/
def isGroupCode (c : Char8) : Bool := isAlphabetCode c || c == Config.pad

/-- Whether a code may stand on the O-format at all: the 67 values of R56. -/
def isOfferedCode (c : Char8) : Bool := isGroupCode c || c == Config.cr || c == Config.lf

/-- Well-formed operations: PUTC's character is one the encoder can offer. -/
def Instr.wf : Instr → Bool
  | .start => true
  | .rdreq => true
  | .enc3 _ _ _ => true
  | .enc2 _ _ => true
  | .enc1 _ => true
  | .endInput => true
  | .rdfail => true
  | .putc c => isGroupCode c
  | .putcr => true
  | .putlf => true
  | .wack => true
  | .wfail => true
  | .blk3 _ _ _ => true
  | .blk2 _ _ => true
  | .blk1 _ => true
  | .blk0 => true

end Sys2Proof
end

