-- ==== Sys2Proof/Decode.lean ====
section
/-! DEFINITION. Sys2Proof/Decode.lean: the decoder of the words that cross the ports (R52 to R56, R60), total, with
every rejection named; the encoder written from the same formats; and the reading of an opcode-table word. -/

namespace Sys2Proof

/-! ### Fields of the formats -/

/-- ERR of an R-format word, bit 26 (R53). -/
def RWord.err (w : RWord) : Bool := w.getLsbD 26

/-- LEN of an R-format word, bits 25:24 (R53). -/
def RWord.len (w : RWord) : BitVec 2 := w.extractLsb' 24 2

/-- B0 of an R-format word, bits 23:16 (R53). -/
def RWord.b0 (w : RWord) : Byte := w.extractLsb' 16 8

/-- B1 of an R-format word, bits 15:8 (R53). -/
def RWord.b1 (w : RWord) : Byte := w.extractLsb' 8 8

/-- B2 of an R-format word, bits 7:0 (R53). -/
def RWord.b2 (w : RWord) : Byte := w.extractLsb' 0 8

/-- NB of a B-format word, bits 25:24 (R52). -/
def BWord.nb (w : BWord) : BitVec 2 := w.extractLsb' 24 2

/-- B0 of a B-format word, bits 23:16 (R52). -/
def BWord.b0 (w : BWord) : Byte := w.extractLsb' 16 8

/-- B1 of a B-format word, bits 15:8 (R52). -/
def BWord.b1 (w : BWord) : Byte := w.extractLsb' 8 8

/-- B2 of a B-format word, bits 7:0 (R52). -/
def BWord.b2 (w : BWord) : Byte := w.extractLsb' 0 8

/-! ### The decoder -/

/-- C-format (R55). -/
def decodeCommand (w : CWord) : Decoded :=
  if w = 1 then .instr .start else .reject .noCommand

/-- Q-format (R56). -/
def decodeRequest (w : QWord) : Decoded :=
  if w = 1 then .instr .rdreq else .reject .noRequest

/-- R-format: total, every word is one of the five operations (R60). ERR has priority over LEN (R135). -/
def decodeReadResponse (w : RWord) : Instr :=
  if RWord.err w then .rdfail
  else if RWord.len w = 3 then .enc3 (RWord.b0 w) (RWord.b1 w) (RWord.b2 w)
  else if RWord.len w = 2 then .enc2 (RWord.b0 w) (RWord.b1 w)
  else if RWord.len w = 1 then .enc1 (RWord.b0 w)
  else .endInput

/-- W-format: 0 is WACK, 1 is WFAIL (R54). -/
def decodeWriteResponse (w : WWord) : Instr :=
  if w = 0 then .wack else .wfail

/-- B-format (R52, R60). -/
def decodeBlock (w : BWord) : Instr :=
  if BWord.nb w = 3 then .blk3 (BWord.b0 w) (BWord.b1 w) (BWord.b2 w)
  else if BWord.nb w = 2 then .blk2 (BWord.b0 w) (BWord.b1 w)
  else if BWord.nb w = 1 then .blk1 (BWord.b0 w)
  else .blk0

/-- O-format: CR, LF, the 65 codes of PUTC, and 189 values that are never offered (R56, R61 f). -/
def decodeOffer (w : OWord) : Decoded :=
  if w = Config.cr then .instr .putcr
  else if w = Config.lf then .instr .putlf
  else if isGroupCode w then .instr (.putc w)
  else .reject .neverOffered

/-- The operation a port word is (R60). -/
def decode : PortWord → Decoded
  | .c w => decodeCommand w
  | .q w => decodeRequest w
  | .r w => .instr (decodeReadResponse w)
  | .w w => .instr (decodeWriteResponse w)
  | .b w => .instr (decodeBlock w)
  | .o w => decodeOffer w

/-! ### The encoder -/

/-- The R-format word with the given fields, `{ERR, LEN, B0, B1, B2}` (R53). -/
def packRead (err : BitVec 1) (len : BitVec 2) (b0 b1 b2 : Byte) : RWord := err ++ len ++ b0 ++ b1 ++ b2

/-- The B-format word with the given fields, `{NB, B0, B1, B2}` (R52). -/
def packBlock (nb : BitVec 2) (b0 b1 b2 : Byte) : BWord := nb ++ b0 ++ b1 ++ b2

/-- The canonical word of an operation: its don't-care fields are zero (R63). -/
def encode : Instr → PortWord
  | .start => .c 1
  | .rdreq => .q 1
  | .enc3 b0 b1 b2 => .r (packRead 0 3 b0 b1 b2)
  | .enc2 b0 b1 => .r (packRead 0 2 b0 b1 0)
  | .enc1 b0 => .r (packRead 0 1 b0 0 0)
  | .endInput => .r (packRead 0 0 0 0 0)
  | .rdfail => .r (packRead 1 0 0 0 0)
  | .putc c => .o c
  | .putcr => .o Config.cr
  | .putlf => .o Config.lf
  | .wack => .w 0
  | .wfail => .w 1
  | .blk3 b0 b1 b2 => .b (packBlock 3 b0 b1 b2)
  | .blk2 b0 b1 => .b (packBlock 2 b0 b1 0)
  | .blk1 b0 => .b (packBlock 1 b0 0 0)
  | .blk0 => .b (packBlock 0 0 0 0)

/-! ### Words of the opcode table -/

/-- The port word meant by a bare opcode-table word, which does not say its port (assumption log 8). A word of 27
bits, or of 4 bytes, is read on the R-format and one of 26 bits on the B-format. A word of 1 bit or 1 byte is WACK when
it is 0 and START when it is 1; no other bare 1-bit word exists, and every other byte is an O-format character. -/
def tableWord (nbits w : Nat) : Option PortWord :=
  if nbits = 26 then (if w < 2 ^ 26 then some (.b (BitVec.ofNat 26 w)) else none)
  else if nbits = 27 ∨ nbits = 32 then (if w < 2 ^ 27 then some (.r (BitVec.ofNat 27 w)) else none)
  else if nbits = 1 ∨ nbits = 8 then
    if w = 0 then some (.w 0)
    else if w = 1 then some (.c 1)
    else if w < 2 ^ nbits then some (.o (BitVec.ofNat 8 w))
    else none
  else none

/-- The operation the decoder reads from an opcode-table word. -/
def decodeTableWord (nbits w : Nat) : Option Instr :=
  match tableWord nbits w with
  | none => none
  | some p =>
    match decode p with
    | .instr i => some i
    | .reject _ => none

end Sys2Proof
end

