-- ==== Sys2Proof/Machine/Operands.lean ====
section
/-! DEFINITION. Sys2Proof/Machine/Operands.lean: operand assembly (R59) and the block transform (R51, R57, R71 to
R73): from the bytes of a chunk to the block value, its sextets, and the characters of a group. -/

namespace Sys2Proof.Machine

open Sys2Proof

/-- The number of bytes of a chunk. -/
def ChunkLen.bytes : ChunkLen → Nat
  | .one => 1
  | .two => 2
  | .three => 3

/-- The 2-bit LEN, NB and N of a chunk length (R12, R52, R53). -/
def ChunkLen.bits : ChunkLen → BitVec 2
  | .one => 1
  | .two => 2
  | .three => 3

/-- The bytes of a chunk as IBUF latches them: zero at the positions `>= n` (R11, R59). -/
def fillChunk (n : ChunkLen) (b0 b1 b2 : Byte) : Chunk :=
  { b0 := b0
    b1 := if 2 ≤ n.bytes then b1 else 0
    b2 := if n.bytes = 3 then b2 else 0 }

/-- The block value V, the first byte most significant (R36, R51, R71). -/
def blockValue (c : Chunk) : VWord := c.b0 ++ c.b1 ++ c.b2

/-- Sextet S_j of the block value, S0 at the most significant end (R51). -/
def sextet (v : VWord) (j : Nat) : Sextet := v.extractLsb' (18 - 6 * j) 6

/-- How many data characters a chunk gives, `ceil(8n / 6)` (R72). -/
def dataChars (n : ChunkLen) : Nat := (8 * n.bytes + 5) / 6

/-- ROM[i], the alphabet (R30, R57). No operation writes it (R43). -/
def romRead (i : Sextet) : Char8 :=
  if i.toNat ≤ 25 then BitVec.ofNat 8 (0x41 + i.toNat)
  else if i.toNat ≤ 51 then BitVec.ofNat 8 (0x61 + (i.toNat - 26))
  else if i.toNat ≤ 61 then BitVec.ofNat 8 (0x30 + (i.toNat - 52))
  else if i.toNat = 62 then 0x2B
  else 0x2F

/-- Character j of a group: a ROM look-up at a data position, PAD at the others (R73). -/
def groupChar (n : ChunkLen) (v : VWord) (j : Nat) : Char8 :=
  if j < dataChars n then romRead (sextet v j) else Config.pad

/-- `encode_block(n, b0, b1, b2)` (R70 to R73). -/
def encodeBlock (n : ChunkLen) (b0 b1 b2 : Byte) : Group :=
  let v := blockValue (fillChunk n b0 b1 b2)
  { c0 := groupChar n v 0
    c1 := groupChar n v 1
    c2 := groupChar n v 2
    c3 := groupChar n v 3 }

/-- The G-format word `{c0, c1, c2, c3}` of a group (R52). -/
def packGroup (g : Group) : GWord := g.c0 ++ g.c1 ++ g.c2 ++ g.c3

/-- OBUF[K] (R13, R14). -/
def Group.get (g : Group) (k : BitVec 2) : Char8 :=
  if k = 0 then g.c0 else if k = 1 then g.c1 else if k = 2 then g.c2 else g.c3

/-- The four characters in the order they are written (R37). -/
def Group.chars (g : Group) : List Char8 := [g.c0, g.c1, g.c2, g.c3]

end Sys2Proof.Machine
end

