-- ==== Sys2Proof/Machine/Ops.lean ====
section
/-! DEFINITION. Sys2Proof/Machine/Ops.lean: the named operations the meanings share: what the encoder drives on its
ports, the read and the write transaction, the failure entry (R136), and the reset event (R150). There is no return
from a failure (R138): START and reset are the ways out. -/

namespace Sys2Proof.Machine

open Sys2Proof

/-- RDREQ is asserted if and only if PHASE = READ (R94). -/
def State.rdreq (s : State) : Bool := s.phase == .read

/-- The character the encoder offers to the sink, if it offers one (R100, R101, R102). -/
def State.offered (s : State) : Option Char8 :=
  match s.phase with
  | .idle => none
  | .read => none
  | .emit => some (s.obuf.get s.k)
  | .cr => some Config.cr
  | .lf => some Config.lf
  | .done => none
  | .failed => none

/-- A read response: it has its effect where a read is requested, and no step elsewhere (R33, R116). -/
def answerRead (effect : State → State) (s : State) : Host.Outcome State Fault Refusal :=
  if s.rdreq then .next (effect s) else .fault .unrequested

/-- A write response: it has its effect, on the character offered, where one is, and no step elsewhere (R35, R116). -/
def answerWrite (effect : Char8 → State → State) (s : State) : Host.Outcome State Fault Refusal :=
  match s.offered with
  | some c => .next (effect c s)
  | none => .fault .unrequested

/-- What the encoder drives changes no state by itself (R94, R100 to R102): a trace line is its own next state where
the port is driven so, and has no step elsewhere. -/
def drives (driven : Bool) (s : State) : Host.Outcome State Fault Refusal :=
  if driven then .next s else .fault .notDriven

/-- BlockCodec returns a group on the G-format (R70). It writes no register. -/
def blockResult (g : Group) (s : State) : State := { s with gout := some (packGroup g) }

/-- A chunk arrives: IBUF latches it zero-filled, N its length, OBUF the group BlockCodec forms of it, K is cleared,
EOI is set by a short chunk, and the source has delivered the bytes (R33, R95, R96, R97). -/
def receiveChunk (n : ChunkLen) (b0 b1 b2 : Byte) (s : State) : State :=
  let g := encodeBlock n b0 b1 b2
  { blockResult g s with
    ibuf := fillChunk n b0 b1 b2
    n := n.bits
    obuf := g
    k := 0
    eoi := eoiAfterRead n.bytes s.eoi
    src := s.src.drop n.bytes
    phase := .emit }

/-- TAKING A FAILURE, the block's only exception: CAUSE records it and PHASE becomes FAILED; nothing is saved and
nothing else is written (R136). -/
def raiseFailure (c : Cause) (s : State) : State := { s with cause := c, phase := .failed }

/-- An unanswered or failed read may have lost bytes of the source: what is left is any suffix (U4, U3). -/
def loseBytes (s : State) : State := { s with src := s.src.drop (Config.lostBytes s.draws), draws := s.draws + 1 }

/-- Whether a character whose write was not acknowledged is in the sink: WFAIL_APPENDS, drawn anew (U3). -/
def mayAppend (c : Char8) (s : State) : State :=
  { s with snk := if Config.wfailAppends s.draws then s.snk ++ [c] else s.snk, draws := s.draws + 1 }

/-- The sink accepts a character: SNK ++ [c] (R35). -/
def sinkAccept (c : Char8) (s : State) : State := { s with snk := s.snk ++ [c] }

/-- Where an accepted character takes the encoder (R103). -/
def advanceWrite (s : State) : State :=
  match s.phase with
  | .emit =>
    if s.k.toNat < 3 then { s with k := s.k + 1 }
    else { s with cnt := s.cnt + 1, phase := if lineGoesOn s.cnt s.eoi then .read else .cr }
  | .cr => { s with phase := .lf }
  | .lf => if s.eoi then { s with phase := .done } else { s with cnt := 0, phase := .read }
  | .idle => s
  | .read => s
  | .done => s
  | .failed => s

/-- An invocation begins: EOI, CNT and CAUSE are cleared and the first read is requested (R93). -/
def beginInvocation (s : State) : State :=
  { s with eoi := false, cnt := 0, cause := .none, phase := .read }

/-- The transaction outstanding at a reset is withdrawn, and whether the environment performed it is the
environment's affair (R151, U3). -/
def withdraw (s : State) : State :=
  match s.offered with
  | some c => mayAppend c s
  | none => if s.rdreq then loseBytes s else s

/-- The registers after a reset (R24), the unspecified ones drawn anew. -/
def resetRegisters (s : State) : State :=
  { s with
    ibuf := unspecifiedChunk s.draws
    n := Config.resetN s.draws
    obuf := unspecifiedGroup s.draws
    k := Config.resetK s.draws
    cnt := 0
    eoi := false
    phase := .idle
    cause := .none
    gout := none
    draws := s.draws + 1 }

/-- The reset event, enabled in every PHASE (R150). -/
def resetEvent (s : State) : State := resetRegisters (withdraw s)

end Sys2Proof.Machine
end

