-- ==== Sys2Proof/Machine/BlockCodec.lean ====
section
/-! DEFINITION. Sys2Proof/Machine/BlockCodec.lean: the operations of BlockCodec, B-format in, G-format out (R70). They
write no register of the encoder; what BlockCodec returns stands in State.gout (assumption log 7). -/

namespace Sys2Proof.Machine

open Sys2Proof

/-- BLK3 (R74). -/
def execBlk3 (b0 b1 b2 : Byte) (s : State) : Host.Outcome State Fault Refusal :=
  .next (blockResult (encodeBlock .three b0 b1 b2) s)

/-- BLK2 (R75). -/
def execBlk2 (b0 b1 : Byte) (s : State) : Host.Outcome State Fault Refusal :=
  .next (blockResult (encodeBlock .two b0 b1 0) s)

/-- BLK1 (R76). -/
def execBlk1 (b0 : Byte) (s : State) : Host.Outcome State Fault Refusal :=
  .next (blockResult (encodeBlock .one b0 0 0) s)

/-- BLK0 (R77): reserved; no value is defined for n = 0 and a model refuses it (U1). -/
def execBlk0 (_s : State) : Host.Outcome State Fault Refusal := .refused .zeroByteBlock

end Sys2Proof.Machine
end

