-- ==== Sys2Proof/Machine/ControlPort.lean ====
section
/-! DEFINITION. Sys2Proof/Machine/ControlPort.lean: the operation of the control port, C-format. -/

namespace Sys2Proof.Machine

/-- START (R93): begins an invocation, and has no effect at all while one runs. -/
def execStart (s : State) : Host.Outcome State Fault Refusal :=
  if s.phase.acceptsStart then .next (beginInvocation s) else .next s

end Sys2Proof.Machine
end

