-- ==== Sys2Proof/Machine/ReadPort.lean ====
section
/-! DEFINITION. Sys2Proof/Machine/ReadPort.lean: the operations of the source read port, Q- and R-format. -/

namespace Sys2Proof.Machine

open Sys2Proof

/-- RDREQ (R94): asserted if and only if PHASE = READ; it changes no state by itself. -/
def execRdreq (s : State) : Host.Outcome State Fault Refusal := drives s.rdreq s

/-- ENC3 (R95): a full chunk; EOI is unchanged. -/
def execEnc3 (b0 b1 b2 : Byte) (s : State) : Host.Outcome State Fault Refusal :=
  answerRead (receiveChunk .three b0 b1 b2) s

/-- ENC2 (R96): a short chunk of two bytes; EOI is set. -/
def execEnc2 (b0 b1 : Byte) (s : State) : Host.Outcome State Fault Refusal :=
  answerRead (receiveChunk .two b0 b1 0) s

/-- ENC1 (R97): a short chunk of one byte; EOI is set. -/
def execEnc1 (b0 : Byte) (s : State) : Host.Outcome State Fault Refusal :=
  answerRead (receiveChunk .one b0 0 0) s

/-- END (R98): no byte; EOI is set and the unconditional terminator follows. BlockCodec is not invoked. -/
def execEndInput (s : State) : Host.Outcome State Fault Refusal :=
  answerRead (fun t => { t with eoi := eoiAfterRead 0 t.eoi, phase := .cr }) s

/-- RDFAIL (R99): the read failed; what it did to the source is the source's own affair (R33, U4). -/
def execRdfail (s : State) : Host.Outcome State Fault Refusal :=
  answerRead (fun t => raiseFailure .readFailure (loseBytes t)) s

end Sys2Proof.Machine
end

