-- ==== Sys2Proof/Machine/WritePort.lean ====
section
/-! DEFINITION. Sys2Proof/Machine/WritePort.lean: the operations of the sink write port, O- and W-format. -/

namespace Sys2Proof.Machine

open Sys2Proof

/-- PUTC (R100): asserted with OBUF[K] if and only if PHASE = EMIT; it changes no state by itself. -/
def execPutc (c : Char8) (s : State) : Host.Outcome State Fault Refusal :=
  drives (s.phase == .emit && s.offered == some c) s

/-- PUTCR (R101): asserted if and only if PHASE = CR; it changes no state by itself. -/
def execPutcr (s : State) : Host.Outcome State Fault Refusal := drives (s.phase == .cr) s

/-- PUTLF (R102): asserted if and only if PHASE = LF; it changes no state by itself. -/
def execPutlf (s : State) : Host.Outcome State Fault Refusal := drives (s.phase == .lf) s

/-- WACK (R103): the sink accepted the offered character. -/
def execWack (s : State) : Host.Outcome State Fault Refusal :=
  answerWrite (fun c t => advanceWrite (sinkAccept c t)) s

/-- WFAIL (R104): the write failed; whether the character reached the sink is WFAIL_APPENDS (R35, U3). -/
def execWfail (s : State) : Host.Outcome State Fault Refusal :=
  answerWrite (fun c t => raiseFailure .writeFailure (mayAppend c t)) s

end Sys2Proof.Machine
end

