-- ==== Sys2Proof/Machine/Dispatch.lean ====
section
/-! DEFINITION. Sys2Proof/Machine/Dispatch.lean: exec, one arm per operation. -/

namespace Sys2Proof.Machine

open Sys2Proof

def exec (i : Instr) (s : State) : Host.Outcome State Fault Refusal :=
  match i with
  | .start => Sys2Proof.Machine.execStart s
  | .rdreq => Sys2Proof.Machine.execRdreq s
  | .enc3 b0 b1 b2 => Sys2Proof.Machine.execEnc3 b0 b1 b2 s
  | .enc2 b0 b1 => Sys2Proof.Machine.execEnc2 b0 b1 s
  | .enc1 b0 => Sys2Proof.Machine.execEnc1 b0 s
  | .endInput => Sys2Proof.Machine.execEndInput s
  | .rdfail => Sys2Proof.Machine.execRdfail s
  | .putc c => Sys2Proof.Machine.execPutc c s
  | .putcr => Sys2Proof.Machine.execPutcr s
  | .putlf => Sys2Proof.Machine.execPutlf s
  | .wack => Sys2Proof.Machine.execWack s
  | .wfail => Sys2Proof.Machine.execWfail s
  | .blk3 b0 b1 b2 => Sys2Proof.Machine.execBlk3 b0 b1 b2 s
  | .blk2 b0 b1 => Sys2Proof.Machine.execBlk2 b0 b1 s
  | .blk1 b0 => Sys2Proof.Machine.execBlk1 b0 s
  | .blk0 => Sys2Proof.Machine.execBlk0 s

end Sys2Proof.Machine
end

