-- ==== Sys2Proof/Machine/Fetch.lean ====
section
/-! DEFINITION. Sys2Proof/Machine/Fetch.lean: taking the environment's next line, and making a port ready to take a
given word. The block fetches no instruction (R43): what it runs next is the next line of its environment. -/

namespace Sys2Proof.Machine

open Sys2Proof

/-- The environment's next line, and the state once it is taken; none when the environment does nothing. -/
def fetchLine (s : State) : Option (Line × State) :=
  match s.script with
  | [] => none
  | l :: rest => some (l, { s with script := rest })

/-- The state with a line put before all that the environment does next. -/
def State.feedLine (s : State) (l : Line) : State := { s with script := l :: s.script }

/-- What a port word that is no operation does: a 0 on the C- or Q-format is no event and changes nothing (R55, R56);
a character that is never offered is refused (R61 f). -/
def rejectWord (r : Reject) (s : State) : Host.Outcome State Fault Refusal :=
  match r with
  | .noCommand => .next s
  | .noRequest => .next s
  | .neverOffered => .refused .neverOffered

/-- The state made ready for a word: a port takes a word only in the PHASE that asks for it (R116), so PHASE is set to
one that does, and for a group's character OBUF[K] to it (assumption log 8). -/
def State.readyFor (s : State) : PortWord → State
  | .c _ => s
  | .q _ => { s with phase := .read }
  | .r _ => { s with phase := .read }
  | .w _ => if s.offered.isSome then s else { s with phase := .cr }
  | .b _ => s
  | .o c =>
    if c = Config.cr then { s with phase := .cr }
    else if c = Config.lf then { s with phase := .lf }
    else { s with phase := .emit, k := 0, obuf := { s.obuf with c0 := c } }

end Sys2Proof.Machine
end

