-- ==== Sys2Proof/Machine/Line.lean ====
section
/-! DEFINITION. Sys2Proof/Machine/Line.lean: the effect of one line of the environment: a word on a port runs the
operation it decodes to; a reset is the reset event; the host attaches a source or a sink (R142, R153). -/

namespace Sys2Proof.Machine

open Sys2Proof

/-- A word on a port: the operation it decodes to runs. -/
def runWord (w : PortWord) (s : State) : Host.Outcome State Fault Refusal :=
  match decode w with
  | .instr i => exec i s
  | .reject r => rejectWord r s

/-- The effect of one line of the environment. -/
def runLine (l : Line) (s : State) : Host.Outcome State Fault Refusal :=
  match l with
  | .reset => .next (resetEvent s)
  | .word w => runWord w s
  | .attachSource bytes => .next { s with src := bytes }
  | .attachSink chars => .next { s with snk := chars }

end Sys2Proof.Machine
end

