-- ==== Sys2Proof/Machine/Step.lean ====
section
/-! DEFINITION. Sys2Proof/Machine/Step.lean: one step of the machine: the environment's next line has its effect. Every
step of the encoder waits for another agent (R141), so with no line left it stays as it is for ever (R156). -/

namespace Sys2Proof.Machine

open Sys2Proof

/-- One step (R5, R92). With no line left nothing happens: the encoder has no step of its own (R156). -/
def step (s : State) : Host.Outcome State Fault Refusal :=
  match fetchLine s with
  | none => .next s
  | some (l, t) => runLine l t

/-- The state in which the next step runs the operation of an opcode-table word (assumption log 8). -/
def State.withFetchWord (s : State) (nbits w : Nat) : State :=
  match tableWord nbits w with
  | none => s
  | some p => (s.readyFor p).feedLine (.word p)

end Sys2Proof.Machine
end

