-- ==== Sys2Proof/Machine/Inverse.lean ====
section
/-! DEFINITION. Sys2Proof/Machine/Inverse.lean: the inverse of the block transform, the formulas of R79. Decoding is no
operation of the block (R3): this serves to state R79 and nothing else. -/

namespace Sys2Proof.Machine

open Sys2Proof

/-- The 64 ROM addresses in order (R30). -/
def romAddresses : List Sextet := (List.range 64).map (BitVec.ofNat 6)

/-- The ROM index of a character, if it has one (R79). -/
def romIndex (c : Char8) : Option Sextet := romAddresses.find? (fun i => romRead i == c)

/-- First byte from the first two indices, `{s0, s1[5:4]}` (R79). -/
def inverseByte0 (s0 s1 : Sextet) : Byte := s0 ++ s1.extractLsb' 4 2

/-- Second byte, `{s1[3:0], s2[5:2]}` (R79). -/
def inverseByte1 (s1 s2 : Sextet) : Byte := s1.extractLsb' 0 4 ++ s2.extractLsb' 2 4

/-- Third byte, `{s2[1:0], s3}` (R79). -/
def inverseByte2 (s2 s3 : Sextet) : Byte := s2.extractLsb' 0 2 ++ s3

/-- The bytes a group came from, n told by the number of pads; none where the pad bits are not zero or a character is
neither a ROM code nor a pad in its place (R79). -/
def inverseBlock (g : Group) : Option (List Byte) :=
  match romIndex g.c0, romIndex g.c1 with
  | some s0, some s1 =>
    match romIndex g.c2, romIndex g.c3 with
    | some s2, some s3 => some [inverseByte0 s0 s1, inverseByte1 s1 s2, inverseByte2 s2 s3]
    | some s2, none =>
      if g.c3 = Config.pad ∧ s2.extractLsb' 0 2 = 0 then some [inverseByte0 s0 s1, inverseByte1 s1 s2] else none
    | none, none =>
      if g.c2 = Config.pad ∧ g.c3 = Config.pad ∧ s1.extractLsb' 0 4 = 0 then some [inverseByte0 s0 s1] else none
    | none, some _ => none
  | _, _ => none

end Sys2Proof.Machine
end

