-- ==== Sys2Proof/Machine/Environment.lean ====
section
/-! DEFINITION. Sys2Proof/Machine/Environment.lean: the environment's side of the protocol: the canonical source
(R34), the script's FEED, ACKALL and FAILWRITE (R63), the closed forms and the output grammar of a canonical
invocation (R112, R113), and the run of the machine against an environment that answers as it is asked. -/

namespace Sys2Proof.Machine

open Sys2Proof

/-- The canonical source's answer: ERR = 0, LEN = min(3, |SRC|), and the next LEN bytes (R34). -/
def canonicalWord : List Byte → RWord
  | b0 :: b1 :: b2 :: _ => packRead 0 3 b0 b1 b2
  | [b0, b1] => packRead 0 2 b0 b1 0
  | [b0] => packRead 0 1 b0 0 0
  | [] => packRead 0 0 0 0 0

/-- FEED s: one ENC3 per full triple, then ENC2, ENC1 or END by what is left (R63). -/
def feed : List Byte → List RWord
  | b0 :: b1 :: b2 :: rest => packRead 0 3 b0 b1 b2 :: feed rest
  | [b0, b1] => [packRead 0 2 b0 b1 0]
  | [b0] => [packRead 0 1 b0 0 0]
  | [] => [packRead 0 0 0 0 0]

/-- ACKALL over `k` write transactions (R63). -/
def ackAll (k : Nat) : List WWord := List.replicate k 0

/-- FAILWRITE k: WACK to the write transactions 0 to k-1, WFAIL to number k (R63). -/
def failWrite (k : Nat) : List WWord := List.replicate k 0 ++ [1]

/-- An environment that answers as it is asked: what the source will answer to the reads, and the sink to the writes,
each in order (R63, R141). Where a list is used up that agent answers no more (R156). -/
structure Environment where
  reads : List RWord
  writes : List WWord
  deriving DecidableEq, Repr

/-- The environment's answer to what the encoder requests or offers, and what it will answer afterwards. -/
def Environment.answer (e : Environment) (s : State) : Option (PortWord × Environment) :=
  if s.rdreq then
    match e.reads with
    | [] => none
    | r :: rest => some (.r r, { e with reads := rest })
  else if s.offered.isSome then
    match e.writes with
    | [] => none
    | a :: rest => some (.w a, { e with writes := rest })
  else none

/-- At most `k` transactions of the machine with an environment, each one step; a request that is not answered is
waited on (R156). -/
def runWith : Nat → Environment → State → Host.Outcome State Fault Refusal
  | 0, _, s => .next s
  | k + 1, e, s =>
    match e.answer s with
    | none => .next s
    | some (w, e') =>
      match step (s.feedLine (.word w)) with
      | .next t => runWith k e' t
      | .fault f => .fault f
      | .refused r => .refused r

/-! ### Closed forms of a canonical invocation on `l` bytes (R112) -/

/-- Read transactions: q + 1. -/
def readCount (l : Nat) : Nat := l / 3 + 1

/-- Groups written: G = ceil(l / 3). -/
def groupCount (l : Nat) : Nat := l / 3 + (if l % 3 = 0 then 0 else 1)

/-- Terminators written: T, by the two cases of R112. -/
def terminatorCount (l : Nat) : Nat :=
  if l % 3 = 0 then groupCount l / 19 + 1 else (groupCount l + 18) / 19

/-- Write transactions, the output length in characters: 4G + 2T. -/
def writeCount (l : Nat) : Nat := 4 * groupCount l + 2 * terminatorCount l

/-- CNT at DONE. -/
def finalCount (l : Nat) : Nat :=
  if l % 3 = 0 then groupCount l % 19 else if groupCount l % 19 = 0 then 19 else groupCount l % 19

/-- The environment of a canonical invocation: the canonical source's answers and a sink that accepts all. -/
def canonicalEnvironment (bytes : List Byte) : Environment :=
  { reads := feed bytes, writes := ackAll (writeCount bytes.length) }

/-! ### The output grammar (R113) -/

/-- The characters of the group of the first chunk of a byte list; none for no byte (R110). -/
def firstGroup : List Byte → List Char8
  | b0 :: b1 :: b2 :: _ => (encodeBlock .three b0 b1 b2).chars
  | [b0, b1] => (encodeBlock .two b0 b1 0).chars
  | [b0] => (encodeBlock .one b0 0 0).chars
  | [] => []

/-- The groups g_0 .. g_(G-1) of a canonical invocation, chunk i starting at byte 3i (R38, R113). -/
def groupsOf (bytes : List Byte) : List (List Char8) :=
  (List.range (groupCount bytes.length)).map (fun i => firstGroup (bytes.drop (3 * i)))

/-- Line t, counted from 0, with its terminator: at most 19 groups and CR LF (R113). -/
def lineText (groups : List (List Char8)) (t : Nat) : List Char8 :=
  ((groups.drop (19 * t)).take 19).flatten ++ [Config.cr, Config.lf]

/-- The whole output of a canonical invocation: T lines (R113). -/
def outputText (bytes : List Byte) : List Char8 :=
  ((List.range (terminatorCount bytes.length)).map (lineText (groupsOf bytes))).flatten

end Sys2Proof.Machine
end

