-- ==== Sys2Proof/Machine/Reference.lean ====
section
/-! DEFINITION. Sys2Proof/Machine/Reference.lean: the reference algorithm of R91, two nested loops over an environment
that answers SrcRead and SinkWrite, written beside the step function so that the two can be compared (R92). -/

namespace Sys2Proof.Machine

open Sys2Proof

/-- Where the algorithm stands: its registers, what it has written, and what the environment will still answer. -/
structure RefState where
  cnt : Nat
  eoi : Bool
  out : List Char8
  env : Environment
  deriving DecidableEq, Repr

/-- Why the algorithm has stopped. -/
inductive RefStop where
  /-- The outer loop has ended. -/
  | success
  /-- `raise ReadFailure`. -/
  | readFailure
  /-- `raise WriteFailure`, and the character whose write failed. -/
  | writeFailure (c : Char8)
  /-- The environment does not answer (R156). -/
  | waiting
  deriving DecidableEq, Repr

/-- The outcome of a part of the algorithm. -/
inductive RefRun where
  | goesOn (m : RefState)
  | stops (why : RefStop) (m : RefState)
  deriving DecidableEq, Repr

/-- Sequencing. -/
def RefRun.andThen (r : RefRun) (f : RefState → RefRun) : RefRun :=
  match r with
  | .goesOn m => f m
  | .stops why m => .stops why m

/-- `SinkWrite(c)`, raising WriteFailure where it fails (R91). -/
def refWrite (c : Char8) (m : RefState) : RefRun :=
  match m.env.writes with
  | [] => .stops .waiting m
  | a :: rest =>
    if a = 0 then .goesOn { m with out := m.out ++ [c], env := { m.env with writes := rest } }
    else .stops (.writeFailure c) { m with env := { m.env with writes := rest } }

/-- The four writes of a group (R91). -/
def refGroup (g : Group) (m : RefState) : RefRun :=
  (((refWrite g.c0 m).andThen (refWrite g.c1)).andThen (refWrite g.c2)).andThen (refWrite g.c3)

/-- `encode_block(w.LEN, w.B0, w.B1, w.B2)` of a read word, none where LEN = 0 (R91). -/
def refBlock (w : RWord) : Option Group :=
  if RWord.len w = 3 then some (encodeBlock .three (RWord.b0 w) (RWord.b1 w) (RWord.b2 w))
  else if RWord.len w = 2 then some (encodeBlock .two (RWord.b0 w) (RWord.b1 w) (RWord.b2 w))
  else if RWord.len w = 1 then some (encodeBlock .one (RWord.b0 w) (RWord.b1 w) (RWord.b2 w))
  else none

/-- The inner loop, `while CNT < 19 and EOI = 0`; `k` bounds its passes (R91). -/
def refInner : Nat → RefState → RefRun
  | 0, m => .goesOn m
  | k + 1, m =>
    if m.cnt < 19 ∧ m.eoi = false then
      match m.env.reads with
      | [] => .stops .waiting m
      | w :: rest =>
        if RWord.err w then .stops .readFailure { m with env := { m.env with reads := rest } }
        else
          match refBlock w with
          | none => .goesOn { m with eoi := true, env := { m.env with reads := rest } }
          | some g =>
            (refGroup g { m with
              eoi := if (RWord.len w).toNat < 3 then true else m.eoi
              env := { m.env with reads := rest } }).andThen
              (fun m' => refInner k { m' with cnt := m'.cnt + 1 })
    else .goesOn m

/-- The two writes of a line terminator (R91). -/
def refTerminator (m : RefState) : RefRun := (refWrite Config.cr m).andThen (refWrite Config.lf)

/-- The outer loop, `repeat ... until EOI = 1`; `k` bounds its passes (R91). -/
def refOuter : Nat → RefState → RefRun
  | 0, m => .stops .waiting m
  | k + 1, m =>
    ((refInner 20 { m with cnt := 0 }).andThen refTerminator).andThen
      (fun m' => if m'.eoi then .stops .success m' else refOuter k m')

/-- `encode()` (R91). Every pass of the outer loop reads at least once, so one more pass than there are answers to
reads is never reached. -/
def refEncode (e : Environment) : RefRun :=
  refOuter (e.reads.length + 1) { cnt := 0, eoi := false, out := [], env := e }

end Sys2Proof.Machine
end

