-- ==== Sys2Proof/Safety.lean ====
section
/-! DEFINITION. Sys2Proof/Safety.lean: the invariants of R25, what it means that two states agree, and the properties
of a run that the spec states over the whole machine (R16, R23, R41, R56, R109). -/

namespace Sys2Proof.Machine

open Sys2Proof

/-- What R25 says of a state: (a) to (f), with the group of (c) named by what OBUF was formed of. R25 g is in the types
of PHASE and CAUSE. -/
structure Invariant (s : State) : Prop where
  /-- (a) -/
  count_le : s.cnt.toNat ≤ 19
  /-- (b) -/
  reading : s.phase = .read → s.cnt.toNat < 19 ∧ s.eoi = false
  /-- (c) -/
  emitting : s.phase = .emit → s.cnt.toNat < 19 ∧
    ∃ n : ChunkLen, s.n = n.bits ∧ s.obuf = encodeBlock n s.ibuf.b0 s.ibuf.b1 s.ibuf.b2
  /-- (d) -/
  finished : s.phase = .done → s.eoi = true
  /-- (e) and (f) -/
  failed_iff_cause : s.phase = .failed ↔ s.cause ≠ .none

/-- The encoder's registers agree, all of R10. -/
def SameRegisters (s t : State) : Prop :=
  s.ibuf = t.ibuf ∧ s.n = t.n ∧ s.obuf = t.obuf ∧ s.k = t.k ∧ s.cnt = t.cnt ∧ s.eoi = t.eoi ∧ s.phase = t.phase ∧
    s.cause = t.cause

/-- The spec's whole state agrees: the registers of R10 and the environment's SRC and SNK (R22). The model's own
fields, what is scripted, what BlockCodec last returned and how many free values are spent, are left out. -/
def SameMachine (s t : State) : Prop := SameRegisters s t ∧ s.src = t.src ∧ s.snk = t.snk

/-- Two states that no later transaction can tell apart: OBUF and K agree where they are still to be read (R13, R14),
and IBUF and N need not agree at all (R11, R12). CNT and EOI agree while an invocation runs. -/
def Indistinguishable (s t : State) : Prop :=
  s.phase = t.phase ∧ s.cause = t.cause ∧ s.src = t.src ∧ s.snk = t.snk ∧ s.script = t.script ∧ s.draws = t.draws ∧
    (s.busy = true → s.cnt = t.cnt ∧ s.eoi = t.eoi) ∧ (s.phase = .emit → s.obuf = t.obuf ∧ s.k = t.k)

/-- The outcomes of two runs from states that cannot be told apart: again such states, or the same stop. -/
def SameOutcome (o p : Host.Outcome State Fault Refusal) : Prop :=
  match o, p with
  | .next s, .next t => Indistinguishable s t
  | .fault f, .fault g => f = g
  | .refused r, .refused q => r = q
  | _, _ => False

/-- SNK ends as a line terminator being written leaves it: CR before LF is accepted, CR LF at DONE (R102, R109). -/
def EndsAsWritten (s : State) : Prop :=
  (s.phase = .lf → [Config.cr] <:+ s.snk) ∧ (s.phase = .done → [Config.cr, Config.lf] <:+ s.snk)

/-- The sink holds only characters that can stand on the O-format (R35, R56). -/
def OnlyOfferedCodes (s : State) : Prop := ∀ c ∈ s.snk, isOfferedCode c = true

/-- A line by which the host attaches a source or a sink. -/
def Line.attaches : Line → Bool
  | .reset => false
  | .word _ => false
  | .attachSource _ => true
  | .attachSink _ => true

end Sys2Proof.Machine
end

