-- ==== Sys2Proof/Certificates/Slice0/Obligations.lean ====
section
/-! DEFINITION. Sys2Proof/Certificates/Slice0/Obligations.lean: the statements for the provers. Register values are
written out from the rules, not by the shared operations the meanings call. -/

open Sys2Proof Sys2Proof.Machine

/-! ### Encoding -/

/-- Decoding the canonical word of a well-formed operation gives it back, with every operand (R60, R63). -/
def Obligations.DecodeEncodeRoundTrip : Prop :=
  ∀ i : Instr, i.wf = true → decode (encode i) = .instr i

/-- The operation map of R60, row by row, with every don't-care field at every value. -/
def Obligations.OperationMapIsDecoded : Prop :=
  (∀ (len : BitVec 2) (b0 b1 b2 : Byte), decode (.r (1#1 ++ len ++ b0 ++ b1 ++ b2)) = .instr .rdfail) ∧
  (∀ b0 b1 b2 : Byte,
    decode (.r (0#1 ++ 0b11#2 ++ b0 ++ b1 ++ b2)) = .instr (.enc3 b0 b1 b2) ∧
    decode (.r (0#1 ++ 0b10#2 ++ b0 ++ b1 ++ b2)) = .instr (.enc2 b0 b1) ∧
    decode (.r (0#1 ++ 0b01#2 ++ b0 ++ b1 ++ b2)) = .instr (.enc1 b0) ∧
    decode (.r (0#1 ++ 0b00#2 ++ b0 ++ b1 ++ b2)) = .instr .endInput ∧
    decode (.b (0b11#2 ++ b0 ++ b1 ++ b2)) = .instr (.blk3 b0 b1 b2) ∧
    decode (.b (0b10#2 ++ b0 ++ b1 ++ b2)) = .instr (.blk2 b0 b1) ∧
    decode (.b (0b01#2 ++ b0 ++ b1 ++ b2)) = .instr (.blk1 b0) ∧
    decode (.b (0b00#2 ++ b0 ++ b1 ++ b2)) = .instr .blk0) ∧
  (∀ c : OWord, (c = 0x3D ∨ ∃ i : Sextet, romRead i = c) → decode (.o c) = .instr (.putc c)) ∧
  decode (.o 0x0D) = .instr .putcr ∧ decode (.o 0x0A) = .instr .putlf ∧
  decode (.c 1) = .instr .start ∧ decode (.q 1) = .instr .rdreq ∧
  decode (.w 0) = .instr .wack ∧ decode (.w 1) = .instr .wfail

/-- Every R-format word is one of the five read responses: its fields ERR, LEN, B0, B1, B2 make it up whole, so with
the operation map none is illegal (R53, R60, R61 e). -/
def Obligations.EveryReadWordDecodes : Prop :=
  ∀ w : RWord, (∃ (err : BitVec 1) (len : BitVec 2) (b0 b1 b2 : Byte), w = err ++ len ++ b0 ++ b1 ++ b2) ∧
    ∃ i : Instr, decode (.r w) = .instr i ∧ i.isReadResponse = true

/-- The O-format decodes exactly the 67 values of R56, and no other of the 256. -/
def Obligations.OfferedValuesAreSixtySeven : Prop :=
  (∀ c : OWord, (∃ i, decode (.o c) = .instr i) ↔
    ((∃ i : Sextet, romRead i = c) ∨ c = 0x3D ∨ c = 0x0D ∨ c = 0x0A)) ∧
  (((List.range 256).map (BitVec.ofNat 8)).filter isOfferedCode).length = 67

/-- Words written out from the spec's encodings (programs P1 to P4 of 95_test_vectors.md) decode as the spec says. -/
def Obligations.WrittenOutWordsDecode : Prop :=
  decode (.r 0b011010011010110000101101110) = .instr (.enc3 0x4D 0x61 0x6E) ∧
  decode (.r 0x24D6100) = .instr (.enc2 0x4D 0x61) ∧
  decode (.r 0x14D0000) = .instr (.enc1 0x4D) ∧
  decode (.r 0x0000000) = .instr .endInput ∧
  decode (.r 0x4000000) = .instr .rdfail ∧
  decode (.b 0b11010011010110000101101110) = .instr (.blk3 0x4D 0x61 0x6E) ∧
  decode (.o 0b01010100) = .instr (.putc 0x54) ∧
  decode (.o 0b00001101) = .instr .putcr ∧
  decode (.w 0b1) = .instr .wfail ∧
  decode (.c 0b0) = .reject .noCommand

/-! ### The ROM and BlockCodec -/

/-- R57 by its formula on codes, the injectivity it states, and R58: PAD, CR and LF are no ROM codes. -/
def Obligations.RomHoldsTheAlphabet : Prop :=
  (∀ i : Sextet,
    (i.toNat ≤ 25 → (romRead i).toNat = 0x41 + i.toNat) ∧
    (26 ≤ i.toNat → i.toNat ≤ 51 → (romRead i).toNat = 0x61 + (i.toNat - 26)) ∧
    (52 ≤ i.toNat → i.toNat ≤ 61 → (romRead i).toNat = 0x30 + (i.toNat - 52)) ∧
    (i.toNat = 62 → romRead i = 0x2B) ∧ (i.toNat = 63 → romRead i = 0x2F) ∧
    romRead i ≠ 0x3D ∧ romRead i ≠ 0x0D ∧ romRead i ≠ 0x0A) ∧
  (∀ i j : Sextet, romRead i = romRead j → i = j)

/-- BLK3 by the pseudocode of R74, from the bit slices of the bytes. -/
def Obligations.BlockOfThreeBytes : Prop :=
  ∀ b0 b1 b2 : Byte,
    decode (.b (0b11#2 ++ b0 ++ b1 ++ b2)) = .instr (.blk3 b0 b1 b2) ∧
    encodeBlock .three b0 b1 b2 =
      { c0 := romRead (b0.extractLsb' 2 6)
        c1 := romRead (b0.extractLsb' 0 2 ++ b1.extractLsb' 4 4)
        c2 := romRead (b1.extractLsb' 0 4 ++ b2.extractLsb' 6 2)
        c3 := romRead (b2.extractLsb' 0 6) }

/-- BLK2 by the pseudocode of R75; the value on the B2 lane has no effect. -/
def Obligations.BlockOfTwoBytes : Prop :=
  ∀ b0 b1 b2 : Byte,
    decode (.b (0b10#2 ++ b0 ++ b1 ++ b2)) = .instr (.blk2 b0 b1) ∧
    encodeBlock .two b0 b1 b2 =
      { c0 := romRead (b0.extractLsb' 2 6)
        c1 := romRead (b0.extractLsb' 0 2 ++ b1.extractLsb' 4 4)
        c2 := romRead (b1.extractLsb' 0 4 ++ 0b00#2)
        c3 := 0x3D }

/-- BLK1 by the pseudocode of R76; the values on the B1 and B2 lanes have no effect. -/
def Obligations.BlockOfOneByte : Prop :=
  ∀ b0 b1 b2 : Byte,
    decode (.b (0b01#2 ++ b0 ++ b1 ++ b2)) = .instr (.blk1 b0) ∧
    encodeBlock .one b0 b1 b2 =
      { c0 := romRead (b0.extractLsb' 2 6)
        c1 := romRead (b0.extractLsb' 0 2 ++ 0b0000#4)
        c2 := 0x3D
        c3 := 0x3D }

/-- BLK3, BLK2 and BLK1 complete in every state, write no register, no source and no sink, and return the group of
`encode_block` packed as a G-format word (R52, R70). That it is kept in the field gout is the model's choice, log 7. -/
def Obligations.BlockOperationsComplete : Prop :=
  ∀ (s : State) (b0 b1 b2 : Byte),
    (∃ t, exec (.blk3 b0 b1 b2) s = .next t ∧ SameMachine t s ∧
      t.gout = some ((encodeBlock .three b0 b1 b2).c0 ++ (encodeBlock .three b0 b1 b2).c1 ++
        (encodeBlock .three b0 b1 b2).c2 ++ (encodeBlock .three b0 b1 b2).c3)) ∧
    (∃ t, exec (.blk2 b0 b1) s = .next t ∧ SameMachine t s ∧
      t.gout = some ((encodeBlock .two b0 b1 b2).c0 ++ (encodeBlock .two b0 b1 b2).c1 ++
        (encodeBlock .two b0 b1 b2).c2 ++ (encodeBlock .two b0 b1 b2).c3)) ∧
    (∃ t, exec (.blk1 b0) s = .next t ∧ SameMachine t s ∧
      t.gout = some ((encodeBlock .one b0 b1 b2).c0 ++ (encodeBlock .one b0 b1 b2).c1 ++
        (encodeBlock .one b0 b1 b2).c2 ++ (encodeBlock .one b0 b1 b2).c3))

/-- BLK0 is refused in every state, whatever stands on its byte lanes (R77, U1). -/
def Obligations.BlockOfNoByteIsRefused : Prop :=
  ∀ (s : State) (b0 b1 b2 : Byte),
    decode (.b (0b00#2 ++ b0 ++ b1 ++ b2)) = .instr .blk0 ∧ exec .blk0 s = .refused .zeroByteBlock

/-- The output shape of R78: (b) ROM codes first and pads after, (c) no CR, LF or other byte, (d) no early pad. Its (a),
exactly four characters, is the length. -/
def Obligations.GroupShape : Prop :=
  ∀ (n : ChunkLen) (b0 b1 b2 : Byte),
    (encodeBlock n b0 b1 b2).chars.length = 4 ∧
    (∀ c ∈ (encodeBlock n b0 b1 b2).chars.take (n.bytes + 1), ∃ i : Sextet, c = romRead i) ∧
    (∀ c ∈ (encodeBlock n b0 b1 b2).chars.drop (n.bytes + 1), c = 0x3D) ∧
    (∀ c ∈ (encodeBlock n b0 b1 b2).chars,
      c ≠ 0x0D ∧ c ≠ 0x0A ∧ (c = 0x3D ∨ ∃ i : Sextet, c = romRead i)) ∧
    (encodeBlock n b0 b1 b2).c0 ≠ 0x3D ∧ (encodeBlock n b0 b1 b2).c1 ≠ 0x3D

/-- The round trip of R79: its inverse formulas give back the bytes of the chunk, and the length from the number of
pads; so the transform is injective on the disjoint union of its three domains. -/
def Obligations.BlockTransformIsInvertible : Prop :=
  (∀ (n : ChunkLen) (b0 b1 b2 : Byte), inverseBlock (encodeBlock n b0 b1 b2) = some ([b0, b1, b2].take n.bytes)) ∧
  (∀ (n m : ChunkLen) (b0 b1 b2 c0 c1 c2 : Byte), encodeBlock n b0 b1 b2 = encodeBlock m c0 c1 c2 →
    n = m ∧ [b0, b1, b2].take n.bytes = [c0, c1, c2].take m.bytes) ∧
  (∀ (n : ChunkLen) (b0 b1 b2 : Byte),
    n.bytes = 3 - (encodeBlock n b0 b1 b2).chars.countP (· == (0x3D : Char8)))

/-- The prefix law of R80, at whatever bytes stand beyond the shorter chunk. -/
def Obligations.ShorterChunksShareTheirPrefix : Prop :=
  ∀ b0 b1 b2 d1 d2 : Byte,
    (encodeBlock .one b0 d1 d2).c0 = (encodeBlock .three b0 b1 b2).c0 ∧
    (encodeBlock .two b0 b1 d2).c0 = (encodeBlock .three b0 b1 b2).c0 ∧
    (encodeBlock .two b0 b1 d2).c1 = (encodeBlock .three b0 b1 b2).c1 ∧
    (encodeBlock .two b0 b1 d2).chars.take 3 = (encodeBlock .three b0 b1 0x00).chars.take 3 ∧
    (encodeBlock .one b0 d1 d2).chars.take 2 = (encodeBlock .three b0 0x00 0x00).chars.take 2

/-! ### The operations of the StreamEncoder -/

/-- START by the pseudocode of R93: it begins an invocation from IDLE, DONE and FAILED, and while one runs it changes
nothing at all. -/
def Obligations.StartBeginsAnInvocation : Prop :=
  decode (.c 1) = .instr .start ∧
  ∀ s : State,
    (s.phase = .idle ∨ s.phase = .done ∨ s.phase = .failed → ∃ t, exec .start s = .next t ∧
      SameMachine t { s with eoi := false, cnt := 0, cause := .none, phase := .read }) ∧
    (s.phase = .read ∨ s.phase = .emit ∨ s.phase = .cr ∨ s.phase = .lf → exec .start s = .next s)

/-- RDREQ is asserted if and only if PHASE = READ, and changes no state by itself (R94). -/
def Obligations.ReadIsRequestedExactlyInRead : Prop :=
  decode (.q 1) = .instr .rdreq ∧
  ∀ s : State,
    (s.rdreq = true ↔ s.phase = .read) ∧
    (s.phase = .read → exec .rdreq s = .next s) ∧
    (∀ t, exec .rdreq s = .next t → s.phase = .read)

/-- ENC3 by the pseudocode of R95, enabled only in READ. SRC loses the delivered bytes where it holds them (R33). -/
def Obligations.FullChunkIsLoaded : Prop :=
  ∀ b0 b1 b2 : Byte,
    decode (.r (0#1 ++ 0b11#2 ++ b0 ++ b1 ++ b2)) = .instr (.enc3 b0 b1 b2) ∧
    ∀ s : State,
      (s.phase = .read → ∃ t, exec (.enc3 b0 b1 b2) s = .next t ∧ t.snk = s.snk ∧
        SameRegisters t { s with
          ibuf := { b0 := b0, b1 := b1, b2 := b2 }
          n := 3
          obuf := encodeBlock .three b0 b1 b2
          k := 0
          phase := .emit } ∧
        ∀ rest, s.src = b0 :: b1 :: b2 :: rest → t.src = rest) ∧
      (∀ t, exec (.enc3 b0 b1 b2) s = .next t → s.phase = .read)

/-- ENC2 by the pseudocode of R96, enabled only in READ; B2 is ignored. SRC loses the delivered bytes (R33). -/
def Obligations.TwoByteChunkIsLoaded : Prop :=
  ∀ b0 b1 b2 : Byte,
    decode (.r (0#1 ++ 0b10#2 ++ b0 ++ b1 ++ b2)) = .instr (.enc2 b0 b1) ∧
    ∀ s : State,
      (s.phase = .read → ∃ t, exec (.enc2 b0 b1) s = .next t ∧ t.snk = s.snk ∧
        SameRegisters t { s with
          ibuf := { b0 := b0, b1 := b1, b2 := 0x00 }
          n := 2
          obuf := encodeBlock .two b0 b1 0x00
          k := 0
          eoi := true
          phase := .emit } ∧
        ∀ rest, s.src = b0 :: b1 :: rest → t.src = rest) ∧
      (∀ t, exec (.enc2 b0 b1) s = .next t → s.phase = .read)

/-- ENC1 by the pseudocode of R97, enabled only in READ; B1 and B2 are ignored. SRC loses the delivered byte (R33). -/
def Obligations.OneByteChunkIsLoaded : Prop :=
  ∀ b0 b1 b2 : Byte,
    decode (.r (0#1 ++ 0b01#2 ++ b0 ++ b1 ++ b2)) = .instr (.enc1 b0) ∧
    ∀ s : State,
      (s.phase = .read → ∃ t, exec (.enc1 b0) s = .next t ∧ t.snk = s.snk ∧
        SameRegisters t { s with
          ibuf := { b0 := b0, b1 := 0x00, b2 := 0x00 }
          n := 1
          obuf := encodeBlock .one b0 0x00 0x00
          k := 0
          eoi := true
          phase := .emit } ∧
        ∀ rest, s.src = b0 :: rest → t.src = rest) ∧
      (∀ t, exec (.enc1 b0) s = .next t → s.phase = .read)

/-- END by the pseudocode of R98, enabled only in READ: nothing else changes, and no byte leaves the source. That
BlockCodec is not invoked shows in gout, the model's own field (log 7). -/
def Obligations.EndOfInputClosesTheLine : Prop :=
  ∀ b0 b1 b2 : Byte,
    decode (.r (0#1 ++ 0b00#2 ++ b0 ++ b1 ++ b2)) = .instr .endInput ∧
    ∀ s : State,
      (s.phase = .read → ∃ t, exec .endInput s = .next t ∧ SameMachine t { s with eoi := true, phase := .cr } ∧
        t.gout = s.gout) ∧
      (∀ t, exec .endInput s = .next t → s.phase = .read)

/-- RDFAIL by the pseudocode of R99 and R131, enabled only in READ: the failure is entered, no register but CAUSE and
PHASE is written, nothing more is written to the sink, and the source keeps some suffix of what it held (U4). -/
def Obligations.ReadFailureIsTaken : Prop :=
  ∀ (len : BitVec 2) (b0 b1 b2 : Byte),
    decode (.r (1#1 ++ len ++ b0 ++ b1 ++ b2)) = .instr .rdfail ∧
    ∀ s : State,
      (s.phase = .read → ∃ t, exec .rdfail s = .next t ∧
        SameRegisters t { s with cause := .readFailure, phase := .failed } ∧ t.cause.code = 1 ∧
        t.snk = s.snk ∧ t.src <:+ s.src) ∧
      (∀ t, exec .rdfail s = .next t → s.phase = .read)

/-- PUTC by R100: the character is OBUF[K], offered if and only if PHASE = EMIT; it changes no state by itself. -/
def Obligations.GroupCharacterIsOffered : Prop :=
  ∀ (s : State) (c : Char8),
    (s.phase = .emit → s.obuf.chars[s.k.toNat]? = some c → exec (.putc c) s = .next s ∧ s.offered = some c) ∧
    (∀ t, exec (.putc c) s = .next t → s.phase = .emit ∧ s.obuf.chars[s.k.toNat]? = some c)

/-- PUTCR by R101: 0x0D is offered if and only if PHASE = CR; it changes no state by itself. -/
def Obligations.CarriageReturnIsOffered : Prop :=
  decode (.o 0b00001101) = .instr .putcr ∧
  ∀ s : State,
    (s.phase = .cr → exec .putcr s = .next s ∧ s.offered = some 0x0D) ∧
    (∀ t, exec .putcr s = .next t → s.phase = .cr)

/-- PUTLF by R102: 0x0A is offered if and only if PHASE = LF; it changes no state by itself. -/
def Obligations.LineFeedIsOffered : Prop :=
  decode (.o 0b00001010) = .instr .putlf ∧
  ∀ s : State,
    (s.phase = .lf → exec .putlf s = .next s ∧ s.offered = some 0x0A) ∧
    (∀ t, exec .putlf s = .next t → s.phase = .lf)

/-- WACK by the pseudocode of R103, branch by branch, enabled only in EMIT, CR and LF. That CNT + 1 < 19 is tested on
the exact number is the model's reading, log 13: it shows only at CNT = 31 in EMIT, which R25 c rules out. -/
def Obligations.AcceptedCharacterAdvances : Prop :=
  decode (.w 0) = .instr .wack ∧
  ∀ s : State,
    (∀ c, s.phase = .emit → s.k.toNat < 3 → s.obuf.chars[s.k.toNat]? = some c → ∃ t, exec .wack s = .next t ∧
      SameMachine t { s with snk := s.snk ++ [c], k := s.k + 1 }) ∧
    (s.phase = .emit → s.k = 3 → ∃ t, exec .wack s = .next t ∧
      SameMachine t { s with
        snk := s.snk ++ [s.obuf.c3]
        cnt := s.cnt + 1
        phase := if s.cnt.toNat + 1 < 19 ∧ s.eoi = false then .read else .cr }) ∧
    (s.phase = .cr → ∃ t, exec .wack s = .next t ∧ SameMachine t { s with snk := s.snk ++ [0x0D], phase := .lf }) ∧
    (s.phase = .lf → s.eoi = true → ∃ t, exec .wack s = .next t ∧
      SameMachine t { s with snk := s.snk ++ [0x0A], phase := .done }) ∧
    (s.phase = .lf → s.eoi = false → ∃ t, exec .wack s = .next t ∧
      SameMachine t { s with snk := s.snk ++ [0x0A], cnt := 0, phase := .read }) ∧
    (∀ t, exec .wack s = .next t → s.phase = .emit ∨ s.phase = .cr ∨ s.phase = .lf)

/-- WFAIL by the pseudocode of R104 and R132, enabled only in EMIT, CR and LF: the failure is entered, no register but
CAUSE and PHASE is written, the source is not read, what was accepted stays, and the character offered is in the sink
or not (U3). -/
def Obligations.WriteFailureIsTaken : Prop :=
  decode (.w 1) = .instr .wfail ∧
  ∀ s : State,
    (∀ c, s.offered = some c → ∃ t, exec .wfail s = .next t ∧
      SameRegisters t { s with cause := .writeFailure, phase := .failed } ∧ t.cause.code = 2 ∧ t.src = s.src ∧
      (t.snk = s.snk ∨ t.snk = s.snk ++ [c])) ∧
    ((∃ c, s.offered = some c) ↔ s.phase = .emit ∨ s.phase = .cr ∨ s.phase = .lf) ∧
    (∀ t, exec .wfail s = .next t → s.phase = .emit ∨ s.phase = .cr ∨ s.phase = .lf)

/-! ### Control transfer and the whole machine -/

/-- The table of R116, read backwards: whatever event runs, its PHASE, condition, next PHASE and writes are one of the
table's rows, in every state. Where the table has CNT + 1 = 19 this has 19 <= CNT + 1: the two are one while CNT < 19
(R25 c), and beyond that the row follows the test of R103 on the exact number, the model's reading, log 13. The
operations the encoder and BlockCodec issue are no rows: they move nothing. -/
def Obligations.TransfersAreTheTable : Prop :=
  ∀ (i : Instr) (s t : State), exec i s = .next t →
    (i = .start ∧ s.busy = false ∧
      SameRegisters t { s with eoi := false, cnt := 0, cause := .none, phase := .read }) ∨
    (i = .start ∧ s.busy = true ∧ t = s) ∨
    (s.phase = .read ∧ t.phase = .emit ∧ t.k = 0 ∧ t.cnt = s.cnt ∧ t.cause = s.cause ∧
      ((t.n = 3 ∧ t.eoi = s.eoi ∧ ∃ b0 b1 b2, i = .enc3 b0 b1 b2) ∨
        (t.n = 2 ∧ t.eoi = true ∧ ∃ b0 b1, i = .enc2 b0 b1) ∨ (t.n = 1 ∧ t.eoi = true ∧ ∃ b0, i = .enc1 b0))) ∨
    (i = .endInput ∧ s.phase = .read ∧ SameRegisters t { s with eoi := true, phase := .cr }) ∨
    (i = .rdfail ∧ s.phase = .read ∧ SameRegisters t { s with cause := .readFailure, phase := .failed }) ∨
    (i = .wack ∧ s.phase = .emit ∧ s.k.toNat < 3 ∧ SameRegisters t { s with k := s.k + 1 }) ∨
    (i = .wack ∧ s.phase = .emit ∧ s.k = 3 ∧ s.cnt.toNat + 1 < 19 ∧ s.eoi = false ∧
      SameRegisters t { s with cnt := s.cnt + 1, phase := .read }) ∨
    (i = .wack ∧ s.phase = .emit ∧ s.k = 3 ∧ (19 ≤ s.cnt.toNat + 1 ∨ s.eoi = true) ∧
      SameRegisters t { s with cnt := s.cnt + 1, phase := .cr }) ∨
    (i = .wack ∧ s.phase = .cr ∧ SameRegisters t { s with phase := .lf }) ∨
    (i = .wack ∧ s.phase = .lf ∧ s.eoi = false ∧ SameRegisters t { s with cnt := 0, phase := .read }) ∨
    (i = .wack ∧ s.phase = .lf ∧ s.eoi = true ∧ SameRegisters t { s with phase := .done }) ∨
    (i = .wfail ∧ (s.phase = .emit ∨ s.phase = .cr ∨ s.phase = .lf) ∧
      SameRegisters t { s with cause := .writeFailure, phase := .failed }) ∨
    ((i.format = .q ∨ i.format = .o ∨ i.format = .b) ∧ SameMachine t s)

/-- A response answers a request: a read response runs in READ and has no step in another PHASE, a write response runs
in EMIT, CR and LF and has no step in another (R116). That the missing step is the fault `unrequested` is log 9. -/
def Obligations.AnswersRunExactlyWhereAsked : Prop :=
  ∀ (i : Instr) (s : State),
    (i.isReadResponse = true → if s.phase = .read then ∃ t, exec i s = .next t else exec i s = .fault .unrequested) ∧
    (i.isWriteResponse = true → if s.phase = .emit ∨ s.phase = .cr ∨ s.phase = .lf then ∃ t, exec i s = .next t
      else exec i s = .fault .unrequested)

/-- Failure entry, R136: an operation that takes the encoder into FAILED writes CAUSE, 1 or 2, and PHASE, and no other
register; in FAILED `fail` is 1, `busy` is 0, no read is requested and no character offered. -/
def Obligations.FailureEntrySavesOnlyCause : Prop :=
  (∀ (i : Instr) (s t : State), exec i s = .next t → s.phase ≠ .failed → t.phase = .failed →
    (t.cause.code = 1 ∨ t.cause.code = 2) ∧ SameRegisters t { s with cause := t.cause, phase := .failed }) ∧
  (∀ s : State, s.phase = .failed →
    s.failOut = true ∧ s.busy = false ∧ s.doneOut = false ∧ s.rdreq = false ∧ s.offered = none)

/-- The only ways out of FAILED are START, which begins with CAUSE cleared, and reset (R138). -/
def Obligations.OnlyStartAndResetLeaveFailed : Prop :=
  ∀ (l : Line) (s t : State), runLine l s = .next t → s.phase = .failed → t.phase ≠ .failed →
    (l = .reset ∧ t.phase = .idle) ∨ (l = .word (.c 1) ∧ t.phase = .read ∧ t.cause = .none)

/-- CAUSE is written by an accepted START (0), RDFAIL (1) and WFAIL (2), and by no other operation; 3 is never
produced (R18). -/
def Obligations.CauseIsWrittenOnlyByFailuresAndStart : Prop :=
  ∀ (i : Instr) (s t : State), exec i s = .next t →
    t.cause.code ≠ 3 ∧
    (i = .start → s.phase.acceptsStart = true → t.cause.code = 0) ∧
    (i = .rdfail → t.cause.code = 1) ∧
    (i = .wfail → t.cause.code = 2) ∧
    ((i = .start → s.phase.acceptsStart = false) → i ≠ .rdfail → i ≠ .wfail → t.cause = s.cause)

/-- EOI is set by a read response of fewer than 3 bytes, left alone by ENC3, and once set stays set until an accepted
START or reset, which clear it (R16). -/
def Obligations.EndOfInputStaysKnown : Prop :=
  ∀ (l : Line) (s t : State), runLine l s = .next t →
    (l = .reset → t.eoi = false) ∧
    (l = .word (.c 1) → s.phase.acceptsStart = true → t.eoi = false) ∧
    (∀ w, l = .word (.r w) → RWord.err w = false →
      t.eoi = if (RWord.len w).toNat < 3 then true else s.eoi) ∧
    (s.eoi = true → t.eoi = false → l = .reset ∨ (l = .word (.c 1) ∧ s.phase.acceptsStart = true))

/-- The group counter by R15 and R105: which operations write it, and with what; in a state that meets the invariant it
never passes 19. -/
def Obligations.GroupCounterCountsALine : Prop :=
  ∀ (i : Instr) (s t : State), Invariant s → exec i s = .next t →
    t.cnt.toNat ≤ 19 ∧
    t.cnt.toNat =
      if (i = .start ∧ s.phase.acceptsStart = true) ∨ (i = .wack ∧ s.phase = .lf ∧ s.eoi = false) then 0
      else if i = .wack ∧ s.phase = .emit ∧ s.k = 3 then s.cnt.toNat + 1
      else s.cnt.toNat

/-- The status outputs by R19: `busy` in READ, EMIT, CR and LF, `done` in DONE, `fail` in FAILED; at most one is 1, and
none in IDLE. -/
def Obligations.StatusOutputsFollowPhase : Prop :=
  ∀ s : State,
    (s.busy = true ↔ s.phase = .read ∨ s.phase = .emit ∨ s.phase = .cr ∨ s.phase = .lf) ∧
    (s.doneOut = true ↔ s.phase = .done) ∧ (s.failOut = true ↔ s.phase = .failed) ∧
    (s.busy.toNat + s.doneOut.toNat + s.failOut.toNat ≤ 1) ∧
    (s.phase = .idle → s.busy = false ∧ s.doneOut = false ∧ s.failOut = false)

/-- What stands on the O-format is one of the 67 values and no other, and its bit 7 is 0 (R56), in every state that meets
the invariant. That each of the 67 is offered somewhere is EveryLegalCodeIsOffered. -/
def Obligations.OfferedCharacterIsALegalCode : Prop :=
  ∀ (s : State) (c : Char8), Invariant s → s.offered = some c →
    ((∃ i : Sextet, romRead i = c) ∨ c = 0x3D ∨ c = 0x0D ∨ c = 0x0A) ∧ c.getLsbD 7 = false

/-! ### Reset -/

/-- The values R24 gives for reset; IBUF, N, OBUF and K are unspecified and nothing is said of them. The ports are
silent (R150). -/
def Obligations.ResetStateIsIdle : Prop :=
  State.reset.phase.code = 0 ∧ State.reset.cnt = 0 ∧ State.reset.eoi = false ∧ State.reset.cause.code = 0 ∧
  State.reset.busy = false ∧ State.reset.doneOut = false ∧ State.reset.failOut = false ∧
  State.reset.rdreq = false ∧ State.reset.offered = none

/-- The reset event, in every state (R150, R151): the registers take the values of R24, completed transactions keep
their effect on SRC and SNK, and one outstanding transaction may have been performed or not (U3). -/
def Obligations.ResetAbandonsTheInvocation : Prop :=
  ∀ (s : State) (rest : List Line), s.script = .reset :: rest →
    ∃ t, step s = .next t ∧ t.script = rest ∧
      t.phase = .idle ∧ t.cnt = 0 ∧ t.eoi = false ∧ t.cause = .none ∧
      t.busy = false ∧ t.doneOut = false ∧ t.failOut = false ∧ t.rdreq = false ∧ t.offered = none ∧
      t.src <:+ s.src ∧ (s.phase ≠ .read → t.src = s.src) ∧
      (t.snk = s.snk ∨ ∃ c, s.offered = some c ∧ t.snk = s.snk ++ [c])

/-! ### Invariants -/

/-- R25 holds right after reset. -/
def Obligations.ResetMeetsTheInvariant : Prop := Invariant State.reset

/-- Every step keeps R25 (a) to (f), from every state that meets it, whatever the environment does; R25 g: the code 7
of PHASE and the code 3 of CAUSE are never produced. -/
def Obligations.StepKeepsTheInvariant : Prop :=
  ∀ s t : State, Invariant s → step s = .next t → Invariant t ∧ t.phase.code ≠ 7 ∧ t.cause.code ≠ 3

/-- Every step keeps the sink free of all but the 67 values, where it held nothing else and the encoder meets its
invariant; the host attaching another sink is left out (R35, R56). -/
def Obligations.SinkHoldsOnlyLegalCodes : Prop :=
  ∀ (l : Line) (s t : State), Invariant s → OnlyOfferedCodes s → l.attaches = false → runLine l s = .next t →
    OnlyOfferedCodes t

/-- The output ends in CR before LF is written and in CR LF at DONE (R102, R109), kept by everything but the host
attaching another sink. -/
def Obligations.SuccessEndsInALineTerminator : Prop :=
  (∀ (l : Line) (s t : State), EndsAsWritten s → l.attaches = false → runLine l s = .next t → EndsAsWritten t) ∧
  (∀ s : State, s.phase = .idle → EndsAsWritten s)

/-- SNK only grows, by the one character on offer, and only where one is (R35, R41 c). -/
def Obligations.SinkGrowsByTheOfferedCharacter : Prop :=
  ∀ (l : Line) (s t : State), l.attaches = false → runLine l s = .next t →
    t.snk = s.snk ∨ ∃ c, s.offered = some c ∧ t.snk = s.snk ++ [c]

/-- SRC only shrinks, from its front, and only where a read is requested (R22, R33, R41 d). -/
def Obligations.SourceIsConsumedFromItsFront : Prop :=
  ∀ (l : Line) (s t : State), l.attaches = false → runLine l s = .next t →
    t.src <:+ s.src ∧ (s.rdreq = false → t.src = s.src)

/-- BlockCodec is evaluated by BLK3, BLK2 and BLK1 and inside ENC3, ENC2 and ENC1, and by nothing else, END least of
all (R70, R98, R114); no operation touches what the environment does next. Both are about the model's own fields, log 2
and log 7. -/
def Obligations.OnlyChunksInvokeBlockCodec : Prop :=
  ∀ (i : Instr) (s t : State), exec i s = .next t →
    t.script = s.script ∧
    (i.format ≠ .b → t.phase ≠ .emit ∨ s.phase = .emit → t.gout = s.gout) ∧
    (s.phase = .read → t.phase = .emit →
      t.gout = some (t.obuf.c0 ++ t.obuf.c1 ++ t.obuf.c2 ++ t.obuf.c3))

/-- No read once end of input is known (R108): the request is down and every read response has no step. -/
def Obligations.NoReadAfterEndOfInput : Prop :=
  ∀ s : State, Invariant s → s.eoi = true →
    s.rdreq = false ∧ ∀ i : Instr, i.isReadResponse = true → ∀ t, exec i s ≠ .next t

/-! ### Steps -/

/-- A step runs the operation that the next word on a port decodes to, on the state with that word taken. -/
def Obligations.StepRunsTheDecodedOperation : Prop :=
  ∀ (s : State) (w : PortWord) (rest : List Line) (i : Instr),
    s.script = .word w :: rest → decode w = .instr i → step s = exec i { s with script := rest }

/-- The encoder has no step of its own (R156): where the environment does nothing the state stays as it is, with `busy`
as it was. -/
def Obligations.EncoderWaitsForItsEnvironment : Prop :=
  ∀ s : State, s.script = [] → step s = .next s

/-- A C-format 0 is no event (R55): the word is taken and nothing else changes. -/
def Obligations.NoCommandIsNoEvent : Prop :=
  ∀ (s : State) (rest : List Line), s.script = .word (.c 0) :: rest → step s = .next { s with script := rest }

/-- The host attaching a source or a sink changes that one and nothing else (R153); that it is a line of the script is
the model's choice, log 2. -/
def Obligations.AttachingChangesOnlyTheStream : Prop :=
  ∀ (s : State) (rest : List Line) (bytes : List Byte),
    (s.script = .attachSource bytes :: rest → step s = .next { s with script := rest, src := bytes }) ∧
    (s.script = .attachSink bytes :: rest → step s = .next { s with script := rest, snk := bytes })

/-- The host's placing of an opcode-table word: the very next step runs the operation it decodes to, and for every
operation but the reserved BLK0 it completes. The placing is the model's choice, log 8. -/
def Obligations.PlacedWordRunsNext : Prop :=
  ∀ (s : State) (nbits w : Nat) (i : Instr), decodeTableWord nbits w = some i →
    (∃ p, tableWord nbits w = some p ∧ decode p = .instr i ∧
      step (s.withFetchWord nbits w) = exec i (s.readyFor p)) ∧
    (i ≠ .blk0 → ∃ t, step (s.withFetchWord nbits w) = .next t)

/-! ### Invocations -/

/-- FEED gives `L div 3 + 1` read responses, and they are the canonical source's answers one after the other (R63,
R34). -/
def Obligations.FeedIsTheCanonicalSource : Prop :=
  ∀ bytes : List Byte,
    (feed bytes).length = bytes.length / 3 + 1 ∧
    feed bytes = canonicalWord bytes :: (if 3 ≤ bytes.length then feed (bytes.drop 3) else [])

/-- R112 and R113: an invocation on a canonical source holding any bytes, with every write accepted, started in any
state that accepts START, ends in DONE after exactly its closed-form number of transactions, with EOI = 1, CAUSE = 0,
the source empty, the closed-form CNT, and the text of the output grammar added to the sink; before that it is busy. -/
def Obligations.CanonicalInvocationWritesItsText : Prop :=
  ∀ (s : State) (bytes : List Byte), s.phase.acceptsStart = true → s.src = bytes →
    ∃ t0, exec .start s = .next t0 ∧
      (∃ t, runWith (readCount bytes.length + writeCount bytes.length) (canonicalEnvironment bytes) t0 = .next t ∧
        t.phase = .done ∧ t.eoi = true ∧ t.cause = .none ∧ t.src = [] ∧ t.cnt.toNat = finalCount bytes.length ∧
        t.snk = s.snk ++ outputText bytes) ∧
      (∀ k, k < readCount bytes.length + writeCount bytes.length →
        ∃ t, runWith k (canonicalEnvironment bytes) t0 = .next t ∧ t.busy = true) ∧
      (outputText bytes).length = writeCount bytes.length ∧ terminatorCount bytes.length = bytes.length / 57 + 1

/-- R137 on a canonical source: where write number k of the invocation is the first to fail, the invocation ends in
FAILED with CAUSE = 2, and the sink has the first k characters of the text it would have had, up to the failing one. -/
def Obligations.FailedWriteLeavesAPrefix : Prop :=
  ∀ (s : State) (bytes : List Byte) (k : Nat), s.phase.acceptsStart = true → s.src = bytes →
    k < writeCount bytes.length →
    ∃ t0 t, exec .start s = .next t0 ∧
      runWith (readCount bytes.length + k + 1) { reads := feed bytes, writes := failWrite k } t0 = .next t ∧
      t.phase = .failed ∧ t.cause = .writeFailure ∧
      (t.snk = s.snk ++ (outputText bytes).take k ∨ t.snk = s.snk ++ (outputText bytes).take (k + 1))

/-- R111 and R110: a read that delivers a chunk is followed by the four characters of its group, the next four write
transactions, with no read between them; then the group is counted. -/
def Obligations.GroupIsWrittenAtOnce : Prop :=
  ∀ (s : State) (w : RWord) (g : Group), s.phase = .read → RWord.err w = false → refBlock w = some g →
    (∀ k, k < 4 → ∃ t, runWith (k + 1) { reads := [w], writes := [0, 0, 0, 0] } s = .next t ∧
      t.rdreq = false ∧ t.offered = g.chars[k]? ∧ t.snk = s.snk ++ g.chars.take k ∧ t.cnt = s.cnt) ∧
    ∃ t, runWith 5 { reads := [w], writes := [0, 0, 0, 0] } s = .next t ∧ t.snk = s.snk ++ g.chars ∧
      t.cnt = s.cnt + 1

/-- The empty input (R114): one read answered END, two writes, and one bare CR LF; no group is formed. -/
def Obligations.EmptyInputWritesOneTerminator : Prop :=
  ∀ (s : State) (b0 b1 b2 : Byte), s.phase.acceptsStart = true →
    ∃ t0 t, exec .start s = .next t0 ∧
      runWith 3 { reads := [0#1 ++ 0b00#2 ++ b0 ++ b1 ++ b2], writes := [0, 0] } t0 = .next t ∧
      t.phase = .done ∧ t.snk = s.snk ++ [0x0D, 0x0A] ∧ t.obuf = s.obuf ∧ t.n = s.n ∧ t.src = s.src

/-- The quirk of R106: a length that is a multiple of 57 is k full lines of 76 characters and one bare terminator more,
78k + 2 characters. -/
def Obligations.FullLinesAreFollowedByABareTerminator : Prop :=
  ∀ (bytes : List Byte) (k : Nat), bytes.length = 57 * k →
    (outputText bytes).length = 78 * k + 2 ∧
    outputText bytes = ((List.range k).map (lineText (groupsOf bytes))).flatten ++ [0x0D, 0x0A] ∧
    ∀ j, j < k → (lineText (groupsOf bytes) j).length = 78 ∧ [0x0D, 0x0A] <:+ lineText (groupsOf bytes) j

/-- R91 and R92: against any environment, whatever it answers and wherever it stops answering, the steps of the machine
do what the reference algorithm does: the same end, the same characters, the same CNT and EOI. -/
def Obligations.StepsPerformTheReferenceAlgorithm : Prop :=
  ∀ (s : State) (e : Environment), s.phase.acceptsStart = true →
    ∃ t0 t, exec .start s = .next t0 ∧ runWith (e.reads.length + e.writes.length) e t0 = .next t ∧
      ∃ (why : RefStop) (m : RefState), refEncode e = .stops why m ∧ t.cnt.toNat = m.cnt ∧ t.eoi = m.eoi ∧
        match why with
        | .success => t.phase = .done ∧ t.cause = .none ∧ t.snk = s.snk ++ m.out
        | .readFailure => t.phase = .failed ∧ t.cause = .readFailure ∧ t.snk = s.snk ++ m.out
        | .writeFailure c => t.phase = .failed ∧ t.cause = .writeFailure ∧
            (t.snk = s.snk ++ m.out ∨ t.snk = s.snk ++ m.out ++ [c])
        | .waiting => t.busy = true ∧ t.snk = s.snk ++ m.out

/-- Nothing of an earlier invocation can be seen (R23): after START, states that agree on SRC and SNK cannot be told
apart, whatever their registers held; that the script and the count of free values agree too is about the model's own
fields (log 1, log 2). -/
def Obligations.StartForgetsEarlierInvocations : Prop :=
  ∀ s t : State, s.phase.acceptsStart = true → t.phase.acceptsStart = true → s.src = t.src → s.snk = t.snk →
    s.script = t.script → s.draws = t.draws →
    ∃ s' t', exec .start s = .next s' ∧ exec .start t = .next t' ∧ Indistinguishable s' t'

/-- States that cannot be told apart stay so under every step, and stop alike (R23). -/
def Obligations.StepKeepsStatesIndistinguishable : Prop :=
  ∀ s t : State, Indistinguishable s t → SameOutcome (step s) (step t)

/-- The other half of the 67 values of R56: from any state that accepts START, each of them comes to be offered, in a state
that meets the invariant, when the environment answers suitably. -/
def Obligations.EveryLegalCodeIsOffered : Prop :=
  ∀ (s : State) (c : Char8), s.phase.acceptsStart = true →
    ((∃ i : Sextet, romRead i = c) ∨ c = 0x3D ∨ c = 0x0D ∨ c = 0x0A) →
    ∃ (e : Environment) (k : Nat) (t0 t : State),
      exec .start s = .next t0 ∧ runWith k e t0 = .next t ∧ Invariant t ∧ t.offered = some c
end

