-- ==== Sys2Proof/Laws/Block.lean ====
section
/-! SUPPORT. Sys2Proof/Laws/Block.lean: the small lemmas of the block transform (R51, R57, R72, R73). -/

namespace Sys2Proof.Machine

open Sys2Proof

/-! ### The ROM -/

theorem romRead_isAlphabetCode : ∀ i : Sextet, isAlphabetCode (romRead i) = true := by decide

theorem romRead_ne_pad : ∀ i : Sextet, romRead i ≠ Config.pad := by decide

theorem romRead_ne_cr : ∀ i : Sextet, romRead i ≠ Config.cr := by decide

theorem romRead_ne_lf : ∀ i : Sextet, romRead i ≠ Config.lf := by decide

/-! ### The chunk and its block value -/

@[simp] theorem dataChars_one : dataChars .one = 2 := rfl

@[simp] theorem dataChars_two : dataChars .two = 3 := rfl

@[simp] theorem dataChars_three : dataChars .three = 4 := rfl

@[simp] theorem bytes_one : ChunkLen.one.bytes = 1 := rfl

@[simp] theorem bytes_two : ChunkLen.two.bytes = 2 := rfl

@[simp] theorem bytes_three : ChunkLen.three.bytes = 3 := rfl

@[simp] theorem fillChunk_one (b0 b1 b2 : Byte) : fillChunk .one b0 b1 b2 = { b0 := b0, b1 := 0, b2 := 0 } := rfl

@[simp] theorem fillChunk_two (b0 b1 b2 : Byte) : fillChunk .two b0 b1 b2 = { b0 := b0, b1 := b1, b2 := 0 } := rfl

@[simp] theorem fillChunk_three (b0 b1 b2 : Byte) : fillChunk .three b0 b1 b2 = { b0 := b0, b1 := b1, b2 := b2 } := rfl

/-- Filling a filled chunk changes nothing, so a group can be named by what IBUF holds. -/
theorem fillChunk_fillChunk (n : ChunkLen) (b0 b1 b2 : Byte) :
    fillChunk n (fillChunk n b0 b1 b2).b0 (fillChunk n b0 b1 b2).b1 (fillChunk n b0 b1 b2).b2 =
      fillChunk n b0 b1 b2 := by
  cases n <;> rfl

theorem encodeBlock_fillChunk (n : ChunkLen) (b0 b1 b2 : Byte) :
    encodeBlock n (fillChunk n b0 b1 b2).b0 (fillChunk n b0 b1 b2).b1 (fillChunk n b0 b1 b2).b2 =
      encodeBlock n b0 b1 b2 := by
  simp only [encodeBlock, fillChunk_fillChunk]

/-- The four sextets of a block value, from the bits of its bytes: the table of R51. -/
theorem sextet_blockValue_zero (c : Chunk) : sextet (blockValue c) 0 = c.b0.extractLsb' 2 6 := by
  apply BitVec.eq_of_getLsbD_eq
  intro i hi
  simp only [sextet, blockValue, BitVec.getLsbD_extractLsb', BitVec.getLsbD_append]
  grind

theorem sextet_blockValue_one (c : Chunk) :
    sextet (blockValue c) 1 = c.b0.extractLsb' 0 2 ++ c.b1.extractLsb' 4 4 := by
  apply BitVec.eq_of_getLsbD_eq
  intro i hi
  simp only [sextet, blockValue, BitVec.getLsbD_extractLsb', BitVec.getLsbD_append]
  grind

theorem sextet_blockValue_two (c : Chunk) :
    sextet (blockValue c) 2 = c.b1.extractLsb' 0 4 ++ c.b2.extractLsb' 6 2 := by
  apply BitVec.eq_of_getLsbD_eq
  intro i hi
  simp only [sextet, blockValue, BitVec.getLsbD_extractLsb', BitVec.getLsbD_append]
  grind

theorem sextet_blockValue_three (c : Chunk) : sextet (blockValue c) 3 = c.b2.extractLsb' 0 6 := by
  apply BitVec.eq_of_getLsbD_eq
  intro i hi
  simp only [sextet, blockValue, BitVec.getLsbD_extractLsb', BitVec.getLsbD_append]
  grind

/-! ### Groups -/

/-- OBUF[K] is the K-th of the four characters in writing order. -/
theorem get_eq_chars (g : Group) (k : BitVec 2) : g.chars[k.toNat]? = some (g.get k) := by
  rcases k with ⟨⟨k, hk⟩⟩
  match k, hk with
  | 0, _ => rfl
  | 1, _ => rfl
  | 2, _ => rfl
  | 3, _ => rfl

/-- A character of a group is a ROM code or PAD. -/
theorem groupChar_cases (n : ChunkLen) (v : VWord) (j : Nat) :
    (∃ i, groupChar n v j = romRead i) ∨ groupChar n v j = Config.pad := by
  unfold groupChar
  split
  · exact .inl ⟨_, rfl⟩
  · exact .inr rfl

theorem groupChar_isGroupCode (n : ChunkLen) (v : VWord) (j : Nat) : isGroupCode (groupChar n v j) = true := by
  rcases groupChar_cases n v j with ⟨i, h⟩ | h
  · simp [h, isGroupCode, romRead_isAlphabetCode i]
  · simp [h, isGroupCode]

theorem encodeBlock_get_isGroupCode (n : ChunkLen) (b0 b1 b2 : Byte) (k : BitVec 2) :
    isGroupCode ((encodeBlock n b0 b1 b2).get k) = true := by
  unfold Group.get encodeBlock
  split
  · exact groupChar_isGroupCode ..
  · split
    · exact groupChar_isGroupCode ..
    · split <;> exact groupChar_isGroupCode ..

end Sys2Proof.Machine
end

