-- ==== Sys2Proof/Laws/Decode.lean ====
section
/-! SUPPORT. Sys2Proof/Laws/Decode.lean: the fields of a packed word, so that no later proof computes bit positions. -/

namespace Sys2Proof

/-- A slice of a concatenation that lies whole in its upper part. -/
theorem extract_append_upper {m n : Nat} (x : BitVec m) (y : BitVec n) (k l : Nat) (h : n ≤ k) :
    (x ++ y).extractLsb' k l = x.extractLsb' (k - n) l := by
  apply BitVec.eq_of_getLsbD_eq
  intro i hi
  simp only [BitVec.getLsbD_extractLsb', BitVec.getLsbD_append]
  have h1 : ¬ (k + i < n) := by omega
  have h2 : k - n + i = k + i - n := by omega
  rw [if_neg h1, h2]

/-- A slice of a concatenation that is its whole lower part. -/
theorem extract_append_lower {m n : Nat} (x : BitVec m) (y : BitVec n) : (x ++ y).extractLsb' 0 n = y := by
  ext i hi
  simp [BitVec.getLsbD_append, hi]

theorem extract_whole {n : Nat} (x : BitVec n) : x.extractLsb' 0 n = x := by
  ext i hi
  simp

@[simp] theorem packRead_err (e : BitVec 1) (l : BitVec 2) (b0 b1 b2 : Byte) :
    RWord.err (packRead e l b0 b1 b2) = e.getLsbD 0 := by
  unfold RWord.err packRead
  simp only [BitVec.getLsbD_append]
  simp

@[simp] theorem packRead_len (e : BitVec 1) (l : BitVec 2) (b0 b1 b2 : Byte) :
    RWord.len (packRead e l b0 b1 b2) = l := by
  unfold RWord.len packRead
  rw [extract_append_upper _ _ _ _ (by omega), extract_append_upper _ _ _ _ (by omega),
    extract_append_upper _ _ _ _ (by omega)]
  exact extract_append_lower _ _

@[simp] theorem packRead_b0 (e : BitVec 1) (l : BitVec 2) (b0 b1 b2 : Byte) :
    RWord.b0 (packRead e l b0 b1 b2) = b0 := by
  unfold RWord.b0 packRead
  rw [extract_append_upper _ _ _ _ (by omega), extract_append_upper _ _ _ _ (by omega)]
  exact extract_append_lower _ _

@[simp] theorem packRead_b1 (e : BitVec 1) (l : BitVec 2) (b0 b1 b2 : Byte) :
    RWord.b1 (packRead e l b0 b1 b2) = b1 := by
  unfold RWord.b1 packRead
  rw [extract_append_upper _ _ _ _ (by omega)]
  exact extract_append_lower _ _

@[simp] theorem packRead_b2 (e : BitVec 1) (l : BitVec 2) (b0 b1 b2 : Byte) :
    RWord.b2 (packRead e l b0 b1 b2) = b2 :=
  extract_append_lower _ _

@[simp] theorem packBlock_nb (n : BitVec 2) (b0 b1 b2 : Byte) : BWord.nb (packBlock n b0 b1 b2) = n := by
  unfold BWord.nb packBlock
  rw [extract_append_upper _ _ _ _ (by omega), extract_append_upper _ _ _ _ (by omega),
    extract_append_upper _ _ _ _ (by omega)]
  exact extract_whole _

@[simp] theorem packBlock_b0 (n : BitVec 2) (b0 b1 b2 : Byte) : BWord.b0 (packBlock n b0 b1 b2) = b0 := by
  unfold BWord.b0 packBlock
  rw [extract_append_upper _ _ _ _ (by omega), extract_append_upper _ _ _ _ (by omega)]
  exact extract_append_lower _ _

@[simp] theorem packBlock_b1 (n : BitVec 2) (b0 b1 b2 : Byte) : BWord.b1 (packBlock n b0 b1 b2) = b1 := by
  unfold BWord.b1 packBlock
  rw [extract_append_upper _ _ _ _ (by omega)]
  exact extract_append_lower _ _

@[simp] theorem packBlock_b2 (n : BitVec 2) (b0 b1 b2 : Byte) : BWord.b2 (packBlock n b0 b1 b2) = b2 :=
  extract_append_lower _ _

end Sys2Proof
end

