-- ==== Sys2Proof/Laws/State.lean ====
section
/-! SUPPORT. Sys2Proof/Laws/State.lean: what each shared update of the state does to each field, so that no later proof
unfolds a record update. -/

namespace Sys2Proof.Machine

open Sys2Proof

variable (s : State)

/-! ### feedLine -/

@[simp] theorem feedLine_ibuf (l : Line) : (s.feedLine l).ibuf = s.ibuf := rfl

@[simp] theorem feedLine_n (l : Line) : (s.feedLine l).n = s.n := rfl

@[simp] theorem feedLine_obuf (l : Line) : (s.feedLine l).obuf = s.obuf := rfl

@[simp] theorem feedLine_k (l : Line) : (s.feedLine l).k = s.k := rfl

@[simp] theorem feedLine_cnt (l : Line) : (s.feedLine l).cnt = s.cnt := rfl

@[simp] theorem feedLine_eoi (l : Line) : (s.feedLine l).eoi = s.eoi := rfl

@[simp] theorem feedLine_phase (l : Line) : (s.feedLine l).phase = s.phase := rfl

@[simp] theorem feedLine_cause (l : Line) : (s.feedLine l).cause = s.cause := rfl

@[simp] theorem feedLine_src (l : Line) : (s.feedLine l).src = s.src := rfl

@[simp] theorem feedLine_snk (l : Line) : (s.feedLine l).snk = s.snk := rfl

@[simp] theorem feedLine_script (l : Line) : (s.feedLine l).script = l :: s.script := rfl

@[simp] theorem feedLine_gout (l : Line) : (s.feedLine l).gout = s.gout := rfl

@[simp] theorem feedLine_draws (l : Line) : (s.feedLine l).draws = s.draws := rfl

/-! ### raiseFailure -/

@[simp] theorem raiseFailure_ibuf (c : Cause) : (raiseFailure c s).ibuf = s.ibuf := rfl

@[simp] theorem raiseFailure_n (c : Cause) : (raiseFailure c s).n = s.n := rfl

@[simp] theorem raiseFailure_obuf (c : Cause) : (raiseFailure c s).obuf = s.obuf := rfl

@[simp] theorem raiseFailure_k (c : Cause) : (raiseFailure c s).k = s.k := rfl

@[simp] theorem raiseFailure_cnt (c : Cause) : (raiseFailure c s).cnt = s.cnt := rfl

@[simp] theorem raiseFailure_eoi (c : Cause) : (raiseFailure c s).eoi = s.eoi := rfl

@[simp] theorem raiseFailure_phase (c : Cause) : (raiseFailure c s).phase = .failed := rfl

@[simp] theorem raiseFailure_cause (c : Cause) : (raiseFailure c s).cause = c := rfl

@[simp] theorem raiseFailure_src (c : Cause) : (raiseFailure c s).src = s.src := rfl

@[simp] theorem raiseFailure_snk (c : Cause) : (raiseFailure c s).snk = s.snk := rfl

@[simp] theorem raiseFailure_script (c : Cause) : (raiseFailure c s).script = s.script := rfl

@[simp] theorem raiseFailure_gout (c : Cause) : (raiseFailure c s).gout = s.gout := rfl

@[simp] theorem raiseFailure_draws (c : Cause) : (raiseFailure c s).draws = s.draws := rfl

/-! ### loseBytes -/

@[simp] theorem loseBytes_ibuf : (loseBytes s).ibuf = s.ibuf := rfl

@[simp] theorem loseBytes_n : (loseBytes s).n = s.n := rfl

@[simp] theorem loseBytes_obuf : (loseBytes s).obuf = s.obuf := rfl

@[simp] theorem loseBytes_k : (loseBytes s).k = s.k := rfl

@[simp] theorem loseBytes_cnt : (loseBytes s).cnt = s.cnt := rfl

@[simp] theorem loseBytes_eoi : (loseBytes s).eoi = s.eoi := rfl

@[simp] theorem loseBytes_phase : (loseBytes s).phase = s.phase := rfl

@[simp] theorem loseBytes_cause : (loseBytes s).cause = s.cause := rfl

@[simp] theorem loseBytes_src : (loseBytes s).src = s.src.drop (Config.lostBytes s.draws) := rfl

@[simp] theorem loseBytes_snk : (loseBytes s).snk = s.snk := rfl

@[simp] theorem loseBytes_script : (loseBytes s).script = s.script := rfl

@[simp] theorem loseBytes_gout : (loseBytes s).gout = s.gout := rfl

@[simp] theorem loseBytes_draws : (loseBytes s).draws = s.draws + 1 := rfl

/-! ### mayAppend -/

@[simp] theorem mayAppend_ibuf (c : Char8) : (mayAppend c s).ibuf = s.ibuf := rfl

@[simp] theorem mayAppend_n (c : Char8) : (mayAppend c s).n = s.n := rfl

@[simp] theorem mayAppend_obuf (c : Char8) : (mayAppend c s).obuf = s.obuf := rfl

@[simp] theorem mayAppend_k (c : Char8) : (mayAppend c s).k = s.k := rfl

@[simp] theorem mayAppend_cnt (c : Char8) : (mayAppend c s).cnt = s.cnt := rfl

@[simp] theorem mayAppend_eoi (c : Char8) : (mayAppend c s).eoi = s.eoi := rfl

@[simp] theorem mayAppend_phase (c : Char8) : (mayAppend c s).phase = s.phase := rfl

@[simp] theorem mayAppend_cause (c : Char8) : (mayAppend c s).cause = s.cause := rfl

@[simp] theorem mayAppend_src (c : Char8) : (mayAppend c s).src = s.src := rfl

@[simp] theorem mayAppend_snk (c : Char8) :
    (mayAppend c s).snk = (if Config.wfailAppends s.draws then s.snk ++ [c] else s.snk) := rfl

@[simp] theorem mayAppend_script (c : Char8) : (mayAppend c s).script = s.script := rfl

@[simp] theorem mayAppend_gout (c : Char8) : (mayAppend c s).gout = s.gout := rfl

@[simp] theorem mayAppend_draws (c : Char8) : (mayAppend c s).draws = s.draws + 1 := rfl

/-! ### sinkAccept -/

@[simp] theorem sinkAccept_ibuf (c : Char8) : (sinkAccept c s).ibuf = s.ibuf := rfl

@[simp] theorem sinkAccept_n (c : Char8) : (sinkAccept c s).n = s.n := rfl

@[simp] theorem sinkAccept_obuf (c : Char8) : (sinkAccept c s).obuf = s.obuf := rfl

@[simp] theorem sinkAccept_k (c : Char8) : (sinkAccept c s).k = s.k := rfl

@[simp] theorem sinkAccept_cnt (c : Char8) : (sinkAccept c s).cnt = s.cnt := rfl

@[simp] theorem sinkAccept_eoi (c : Char8) : (sinkAccept c s).eoi = s.eoi := rfl

@[simp] theorem sinkAccept_phase (c : Char8) : (sinkAccept c s).phase = s.phase := rfl

@[simp] theorem sinkAccept_cause (c : Char8) : (sinkAccept c s).cause = s.cause := rfl

@[simp] theorem sinkAccept_src (c : Char8) : (sinkAccept c s).src = s.src := rfl

@[simp] theorem sinkAccept_snk (c : Char8) : (sinkAccept c s).snk = s.snk ++ [c] := rfl

@[simp] theorem sinkAccept_script (c : Char8) : (sinkAccept c s).script = s.script := rfl

@[simp] theorem sinkAccept_gout (c : Char8) : (sinkAccept c s).gout = s.gout := rfl

@[simp] theorem sinkAccept_draws (c : Char8) : (sinkAccept c s).draws = s.draws := rfl

/-! ### beginInvocation -/

@[simp] theorem beginInvocation_ibuf : (beginInvocation s).ibuf = s.ibuf := rfl

@[simp] theorem beginInvocation_n : (beginInvocation s).n = s.n := rfl

@[simp] theorem beginInvocation_obuf : (beginInvocation s).obuf = s.obuf := rfl

@[simp] theorem beginInvocation_k : (beginInvocation s).k = s.k := rfl

@[simp] theorem beginInvocation_cnt : (beginInvocation s).cnt = 0 := rfl

@[simp] theorem beginInvocation_eoi : (beginInvocation s).eoi = false := rfl

@[simp] theorem beginInvocation_phase : (beginInvocation s).phase = .read := rfl

@[simp] theorem beginInvocation_cause : (beginInvocation s).cause = .none := rfl

@[simp] theorem beginInvocation_src : (beginInvocation s).src = s.src := rfl

@[simp] theorem beginInvocation_snk : (beginInvocation s).snk = s.snk := rfl

@[simp] theorem beginInvocation_script : (beginInvocation s).script = s.script := rfl

@[simp] theorem beginInvocation_gout : (beginInvocation s).gout = s.gout := rfl

@[simp] theorem beginInvocation_draws : (beginInvocation s).draws = s.draws := rfl

/-! ### blockResult -/

@[simp] theorem blockResult_ibuf (g : Group) : (blockResult g s).ibuf = s.ibuf := rfl

@[simp] theorem blockResult_n (g : Group) : (blockResult g s).n = s.n := rfl

@[simp] theorem blockResult_obuf (g : Group) : (blockResult g s).obuf = s.obuf := rfl

@[simp] theorem blockResult_k (g : Group) : (blockResult g s).k = s.k := rfl

@[simp] theorem blockResult_cnt (g : Group) : (blockResult g s).cnt = s.cnt := rfl

@[simp] theorem blockResult_eoi (g : Group) : (blockResult g s).eoi = s.eoi := rfl

@[simp] theorem blockResult_phase (g : Group) : (blockResult g s).phase = s.phase := rfl

@[simp] theorem blockResult_cause (g : Group) : (blockResult g s).cause = s.cause := rfl

@[simp] theorem blockResult_src (g : Group) : (blockResult g s).src = s.src := rfl

@[simp] theorem blockResult_snk (g : Group) : (blockResult g s).snk = s.snk := rfl

@[simp] theorem blockResult_script (g : Group) : (blockResult g s).script = s.script := rfl

@[simp] theorem blockResult_gout (g : Group) : (blockResult g s).gout = some (packGroup g) := rfl

@[simp] theorem blockResult_draws (g : Group) : (blockResult g s).draws = s.draws := rfl

/-! ### receiveChunk -/

@[simp] theorem receiveChunk_ibuf (m : ChunkLen) (b0 b1 b2 : Byte) :
    (receiveChunk m b0 b1 b2 s).ibuf = fillChunk m b0 b1 b2 := rfl

@[simp] theorem receiveChunk_n (m : ChunkLen) (b0 b1 b2 : Byte) : (receiveChunk m b0 b1 b2 s).n = m.bits := rfl

@[simp] theorem receiveChunk_obuf (m : ChunkLen) (b0 b1 b2 : Byte) :
    (receiveChunk m b0 b1 b2 s).obuf = encodeBlock m b0 b1 b2 := rfl

@[simp] theorem receiveChunk_k (m : ChunkLen) (b0 b1 b2 : Byte) : (receiveChunk m b0 b1 b2 s).k = 0 := rfl

@[simp] theorem receiveChunk_cnt (m : ChunkLen) (b0 b1 b2 : Byte) : (receiveChunk m b0 b1 b2 s).cnt = s.cnt := rfl

@[simp] theorem receiveChunk_eoi (m : ChunkLen) (b0 b1 b2 : Byte) :
    (receiveChunk m b0 b1 b2 s).eoi = eoiAfterRead m.bytes s.eoi := rfl

@[simp] theorem receiveChunk_phase (m : ChunkLen) (b0 b1 b2 : Byte) : (receiveChunk m b0 b1 b2 s).phase = .emit := rfl

@[simp] theorem receiveChunk_cause (m : ChunkLen) (b0 b1 b2 : Byte) :
    (receiveChunk m b0 b1 b2 s).cause = s.cause := rfl

@[simp] theorem receiveChunk_src (m : ChunkLen) (b0 b1 b2 : Byte) :
    (receiveChunk m b0 b1 b2 s).src = s.src.drop m.bytes := rfl

@[simp] theorem receiveChunk_snk (m : ChunkLen) (b0 b1 b2 : Byte) : (receiveChunk m b0 b1 b2 s).snk = s.snk := rfl

@[simp] theorem receiveChunk_script (m : ChunkLen) (b0 b1 b2 : Byte) :
    (receiveChunk m b0 b1 b2 s).script = s.script := rfl

@[simp] theorem receiveChunk_gout (m : ChunkLen) (b0 b1 b2 : Byte) :
    (receiveChunk m b0 b1 b2 s).gout = some (packGroup (encodeBlock m b0 b1 b2)) := rfl

@[simp] theorem receiveChunk_draws (m : ChunkLen) (b0 b1 b2 : Byte) :
    (receiveChunk m b0 b1 b2 s).draws = s.draws := rfl

/-! ### resetRegisters -/

@[simp] theorem resetRegisters_ibuf : (resetRegisters s).ibuf = unspecifiedChunk s.draws := rfl

@[simp] theorem resetRegisters_n : (resetRegisters s).n = Config.resetN s.draws := rfl

@[simp] theorem resetRegisters_obuf : (resetRegisters s).obuf = unspecifiedGroup s.draws := rfl

@[simp] theorem resetRegisters_k : (resetRegisters s).k = Config.resetK s.draws := rfl

@[simp] theorem resetRegisters_cnt : (resetRegisters s).cnt = 0 := rfl

@[simp] theorem resetRegisters_eoi : (resetRegisters s).eoi = false := rfl

@[simp] theorem resetRegisters_phase : (resetRegisters s).phase = .idle := rfl

@[simp] theorem resetRegisters_cause : (resetRegisters s).cause = .none := rfl

@[simp] theorem resetRegisters_src : (resetRegisters s).src = s.src := rfl

@[simp] theorem resetRegisters_snk : (resetRegisters s).snk = s.snk := rfl

@[simp] theorem resetRegisters_script : (resetRegisters s).script = s.script := rfl

@[simp] theorem resetRegisters_gout : (resetRegisters s).gout = none := rfl

@[simp] theorem resetRegisters_draws : (resetRegisters s).draws = s.draws + 1 := rfl

end Sys2Proof.Machine
end

