-- ==== Sys2Proof/Laws/Ops.lean ====
section
/-! SUPPORT. Sys2Proof/Laws/Ops.lean: one lemma per shared operation that says everything it can do, to be cited in
place of unfolding it. -/

namespace Sys2Proof.Machine

open Sys2Proof

variable {s t : State}

@[simp] theorem rdreq_iff : s.rdreq = true ↔ s.phase = .read := by simp [State.rdreq]

theorem rdreq_false_iff : s.rdreq = false ↔ s.phase ≠ .read := by simp [State.rdreq]

/-- What is offered, phase by phase (R100 to R102). -/
theorem offered_eq_some_iff {c : Char8} : s.offered = some c ↔
    (s.phase = .emit ∧ c = s.obuf.get s.k) ∨ (s.phase = .cr ∧ c = Config.cr) ∨ (s.phase = .lf ∧ c = Config.lf) := by
  unfold State.offered
  cases s.phase <;> simp [eq_comm]

theorem offered_eq_none_iff : s.offered = none ↔ s.phase ≠ .emit ∧ s.phase ≠ .cr ∧ s.phase ≠ .lf := by
  unfold State.offered
  cases s.phase <;> simp

/-- A read response has a next state exactly in READ. -/
theorem answerRead_eq_next {f : State → State} : answerRead f s = .next t ↔ s.phase = .read ∧ t = f s := by
  unfold answerRead
  split
  · next h => simp only [Host.Outcome.next.injEq, rdreq_iff.mp h, true_and, eq_comm]
  · next h => exact iff_of_false (by simp) fun ⟨hp, _⟩ => h (rdreq_iff.mpr hp)

theorem answerRead_of_ne {f : State → State} (h : s.phase ≠ .read) : answerRead f s = .fault .unrequested := by
  simp [answerRead, rdreq_false_iff.mpr h]

/-- A write response has a next state exactly where a character is offered. -/
theorem answerWrite_eq_next {f : Char8 → State → State} :
    answerWrite f s = .next t ↔ ∃ c, s.offered = some c ∧ t = f c s := by
  unfold answerWrite
  cases s.offered <;> simp [eq_comm]

theorem answerWrite_of_none {f : Char8 → State → State} (h : s.offered = none) :
    answerWrite f s = .fault .unrequested := by simp [answerWrite, h]

/-- A driven port changes nothing; a port not driven so has no step. -/
theorem drives_eq_next {b : Bool} : drives b s = .next t ↔ b = true ∧ t = s := by
  unfold drives
  cases b <;> simp [eq_comm]

/-! ### Where an accepted character leads (R103) -/

theorem advanceWrite_emit_within (hp : s.phase = .emit) (hk : s.k.toNat < 3) :
    advanceWrite s = { s with k := s.k + 1 } := by simp [advanceWrite, hp, hk]

theorem advanceWrite_emit_last (hp : s.phase = .emit) (hk : ¬ s.k.toNat < 3) :
    advanceWrite s = { s with cnt := s.cnt + 1, phase := if lineGoesOn s.cnt s.eoi then .read else .cr } := by
  simp [advanceWrite, hp, hk]

theorem advanceWrite_cr (hp : s.phase = .cr) : advanceWrite s = { s with phase := .lf } := by
  simp [advanceWrite, hp]

theorem advanceWrite_lf (hp : s.phase = .lf) :
    advanceWrite s = if s.eoi then { s with phase := .done } else { s with cnt := 0, phase := .read } := by
  simp [advanceWrite, hp]

theorem lineGoesOn_iff {c : BitVec 5} {e : Bool} : lineGoesOn c e = true ↔ c.toNat + 1 < 19 ∧ e = false := by
  rw [lineGoesOn, Bool.and_eq_true, decide_eq_true_iff, Bool.not_eq_true', Config.lineGroups]

theorem eq_three_of_not_lt {k : BitVec 2} (h : ¬ k.toNat < 3) : k = 3 := by
  have := k.isLt
  apply BitVec.eq_of_toNat_eq
  simp
  omega

/-! ### The reset event (R150, R151) -/

/-- Withdrawing the outstanding transaction touches only the environment: a suffix of SRC is left where a read was
requested, and the offered character may be in SNK. -/
theorem withdraw_cases (s : State) :
    (∃ c, s.offered = some c ∧ withdraw s = mayAppend c s) ∨ (s.phase = .read ∧ withdraw s = loseBytes s) ∨
      (s.offered = none ∧ s.phase ≠ .read ∧ withdraw s = s) := by
  unfold withdraw
  cases ho : s.offered with
  | some c => exact .inl ⟨c, rfl, rfl⟩
  | none =>
    by_cases hp : s.phase = .read
    · exact .inr (.inl ⟨hp, by simp [State.rdreq, hp]⟩)
    · exact .inr (.inr ⟨rfl, hp, by simp [State.rdreq, hp]⟩)

theorem mayAppend_snk_cases (c : Char8) (s : State) :
    (mayAppend c s).snk = s.snk ∨ (mayAppend c s).snk = s.snk ++ [c] := by
  rw [mayAppend_snk]
  split
  · exact .inr rfl
  · exact .inl rfl

theorem loseBytes_src_suffix (s : State) : (loseBytes s).src <:+ s.src := List.drop_suffix _ _

@[simp] theorem withdraw_script (s : State) : (withdraw s).script = s.script := by
  rcases withdraw_cases s with ⟨c, -, h⟩ | ⟨-, h⟩ | ⟨-, -, h⟩ <;> rw [h] <;> rfl

end Sys2Proof.Machine
end

