-- ==== Sys2Proof/Laws/PerInstr.lean ====
section
/-! SUPPORT. Sys2Proof/Laws/PerInstr.lean: statements about every operation as syntax, one lemma per constructor. The
family OnItsPort: an operation is encoded on the port of its format (R60). -/

namespace Sys2Proof.Laws.OnItsPort

open Sys2Proof

/-- The encoder puts the operation on the port its row of R60 names. -/
def Statement (i : Instr) : Prop := (encode i).format = i.format

theorem start : Statement .start := rfl
theorem rdreq : Statement .rdreq := rfl
theorem enc3 (b0 b1 b2 : Byte) : Statement (.enc3 b0 b1 b2) := rfl
theorem enc2 (b0 b1 : Byte) : Statement (.enc2 b0 b1) := rfl
theorem enc1 (b0 : Byte) : Statement (.enc1 b0) := rfl
theorem endInput : Statement .endInput := rfl
theorem rdfail : Statement .rdfail := rfl
theorem putc (c : Char8) : Statement (.putc c) := rfl
theorem putcr : Statement .putcr := rfl
theorem putlf : Statement .putlf := rfl
theorem wack : Statement .wack := rfl
theorem wfail : Statement .wfail := rfl
theorem blk3 (b0 b1 b2 : Byte) : Statement (.blk3 b0 b1 b2) := rfl
theorem blk2 (b0 b1 : Byte) : Statement (.blk2 b0 b1) := rfl
theorem blk1 (b0 : Byte) : Statement (.blk1 b0) := rfl
theorem blk0 : Statement .blk0 := rfl

end Sys2Proof.Laws.OnItsPort
end

