-- ==== Sys2Proof/Laws/Step.lean ====
section
/-! SUPPORT. Sys2Proof/Laws/Step.lean: what a step can do, said once. -/

namespace Sys2Proof.Machine

open Sys2Proof

theorem fetchLine_nil {s : State} (h : s.script = []) : fetchLine s = none := by simp [fetchLine, h]

theorem fetchLine_cons {s : State} {l : Line} {rest : List Line} (h : s.script = l :: rest) :
    fetchLine s = some (l, { s with script := rest }) := by simp [fetchLine, h]

/-- A step runs the environment's next line, on the state with that line taken. -/
theorem step_cons {s : State} {l : Line} {rest : List Line} (h : s.script = l :: rest) :
    step s = runLine l { s with script := rest } := by simp [step, fetchLine_cons h]

@[simp] theorem fetchLine_feedLine (s : State) (l : Line) : fetchLine (s.feedLine l) = some (l, s) := rfl

/-- A line put first is the line the next step runs. -/
theorem step_feedLine (s : State) (l : Line) : step (s.feedLine l) = runLine l s := rfl

theorem step_feedWord {s : State} {w : PortWord} {i : Instr} (h : decode w = .instr i) :
    step (s.feedLine (.word w)) = exec i s := by simp [step_feedLine, runLine, runWord, h]

/-- Everything a step can do: wait where the environment does nothing, or run its next line. -/
theorem step_next_cases {s t : State} (h : step s = .next t) :
    (s.script = [] ∧ t = s) ∨
      ∃ l rest, s.script = l :: rest ∧ runLine l { s with script := rest } = .next t := by
  cases hs : s.script with
  | nil => exact .inl ⟨rfl, by simpa [step, fetchLine_nil hs, eq_comm] using h⟩
  | cons l rest => exact .inr ⟨l, rest, rfl, by rwa [step_cons hs] at h⟩

/-- Everything a line can do where it has a next state. -/
theorem runLine_next_cases {l : Line} {s t : State} (h : runLine l s = .next t) :
    (l = .reset ∧ t = resetEvent s) ∨ (∃ b, l = .attachSource b ∧ t = { s with src := b }) ∨
      (∃ b, l = .attachSink b ∧ t = { s with snk := b }) ∨
      (∃ w i, l = .word w ∧ decode w = .instr i ∧ exec i s = .next t) ∨
      (∃ w r, l = .word w ∧ decode w = .reject r ∧ t = s) := by
  cases l with
  | reset => exact .inl ⟨rfl, by simpa [runLine, eq_comm] using h⟩
  | attachSource b => exact .inr (.inl ⟨b, rfl, by simpa [runLine, eq_comm] using h⟩)
  | attachSink b => exact .inr (.inr (.inl ⟨b, rfl, by simpa [runLine, eq_comm] using h⟩))
  | word w =>
    cases hd : decode w with
    | instr i => exact .inr (.inr (.inr (.inl ⟨w, i, rfl, hd, by simpa [runLine, runWord, hd] using h⟩)))
    | reject r =>
      refine .inr (.inr (.inr (.inr ⟨w, r, rfl, hd, ?_⟩)))
      cases r <;> simp [runLine, runWord, hd, rejectWord] at h <;> exact h.symm

/-! ### The meanings, one lemma each -/

variable {s t : State}

theorem exec_start_eq_next : exec .start s = .next t ↔
    t = if s.phase.acceptsStart then beginInvocation s else s := by
  simp only [exec, execStart]
  split <;> simp [eq_comm]

theorem exec_rdreq_eq_next : exec .rdreq s = .next t ↔ s.phase = .read ∧ t = s := by
  simp [exec, execRdreq, drives_eq_next]

theorem exec_enc3_eq_next {b0 b1 b2 : Byte} : exec (.enc3 b0 b1 b2) s = .next t ↔
    s.phase = .read ∧ t = receiveChunk .three b0 b1 b2 s := answerRead_eq_next

theorem exec_enc2_eq_next {b0 b1 : Byte} : exec (.enc2 b0 b1) s = .next t ↔
    s.phase = .read ∧ t = receiveChunk .two b0 b1 0 s := answerRead_eq_next

theorem exec_enc1_eq_next {b0 : Byte} : exec (.enc1 b0) s = .next t ↔
    s.phase = .read ∧ t = receiveChunk .one b0 0 0 s := answerRead_eq_next

theorem exec_endInput_eq_next : exec .endInput s = .next t ↔
    s.phase = .read ∧ t = { s with eoi := true, phase := .cr } := by
  simp only [exec, execEndInput, answerRead_eq_next, eoiAfterRead, Config.chunkBytes, Nat.zero_lt_succ, if_true]

theorem exec_rdfail_eq_next : exec .rdfail s = .next t ↔
    s.phase = .read ∧ t = raiseFailure .readFailure (loseBytes s) := by
  simp only [exec, execRdfail, answerRead_eq_next]

theorem exec_putc_eq_next {c : Char8} : exec (.putc c) s = .next t ↔
    (s.phase = .emit ∧ c = s.obuf.get s.k) ∧ t = s := by
  simp only [exec, execPutc, drives_eq_next]
  refine and_congr_left fun _ => ?_
  simp only [Bool.and_eq_true, beq_iff_eq, offered_eq_some_iff]
  constructor
  · rintro ⟨hp, h⟩
    simpa [hp] using h
  · rintro ⟨hp, h⟩
    exact ⟨hp, .inl ⟨hp, h⟩⟩

theorem exec_putcr_eq_next : exec .putcr s = .next t ↔ s.phase = .cr ∧ t = s := by
  simp [exec, execPutcr, drives_eq_next]

theorem exec_putlf_eq_next : exec .putlf s = .next t ↔ s.phase = .lf ∧ t = s := by
  simp [exec, execPutlf, drives_eq_next]

theorem exec_wack_eq_next : exec .wack s = .next t ↔
    ∃ c, s.offered = some c ∧ t = advanceWrite (sinkAccept c s) := by
  simp only [exec, execWack, answerWrite_eq_next]

theorem exec_wfail_eq_next : exec .wfail s = .next t ↔
    ∃ c, s.offered = some c ∧ t = raiseFailure .writeFailure (mayAppend c s) := by
  simp only [exec, execWfail, answerWrite_eq_next]

theorem exec_blk3_eq_next {b0 b1 b2 : Byte} : exec (.blk3 b0 b1 b2) s = .next t ↔
    t = blockResult (encodeBlock .three b0 b1 b2) s := by simp [exec, execBlk3, eq_comm]

theorem exec_blk2_eq_next {b0 b1 : Byte} : exec (.blk2 b0 b1) s = .next t ↔
    t = blockResult (encodeBlock .two b0 b1 0) s := by simp [exec, execBlk2, eq_comm]

theorem exec_blk1_eq_next {b0 : Byte} : exec (.blk1 b0) s = .next t ↔
    t = blockResult (encodeBlock .one b0 0 0) s := by simp [exec, execBlk1, eq_comm]

theorem exec_blk0_ne_next : exec .blk0 s ≠ .next t := by simp [exec, execBlk0]

/-- Everything an accepted character can do, branch by branch (R103). -/
theorem exec_wack_cases (h : exec .wack s = .next t) :
    (s.phase = .emit ∧ s.k.toNat < 3 ∧ t = { sinkAccept (s.obuf.get s.k) s with k := s.k + 1 }) ∨
    (s.phase = .emit ∧ s.k = 3 ∧ t = { sinkAccept s.obuf.c3 s with
      cnt := s.cnt + 1, phase := if lineGoesOn s.cnt s.eoi then .read else .cr }) ∨
    (s.phase = .cr ∧ t = { sinkAccept Config.cr s with phase := .lf }) ∨
    (s.phase = .lf ∧ s.eoi = true ∧ t = { sinkAccept Config.lf s with phase := .done }) ∨
    (s.phase = .lf ∧ s.eoi = false ∧ t = { sinkAccept Config.lf s with cnt := 0, phase := .read }) := by
  obtain ⟨c, hc, rfl⟩ := exec_wack_eq_next.mp h
  rcases offered_eq_some_iff.mp hc with ⟨hp, rfl⟩ | ⟨hp, rfl⟩ | ⟨hp, rfl⟩
  · by_cases hk : s.k.toNat < 3
    · exact .inl ⟨hp, hk, advanceWrite_emit_within (by simpa using hp) (by simpa using hk)⟩
    · refine .inr (.inl ⟨hp, eq_three_of_not_lt hk, ?_⟩)
      rw [advanceWrite_emit_last (by simpa using hp) (by simpa using hk), eq_three_of_not_lt hk]
      rfl
  · exact .inr (.inr (.inl ⟨hp, advanceWrite_cr (by simpa using hp)⟩))
  · cases he : s.eoi with
    | true =>
      refine .inr (.inr (.inr (.inl ⟨hp, rfl, ?_⟩)))
      rw [advanceWrite_lf (by simpa using hp), if_pos (by simpa using he)]
    | false =>
      refine .inr (.inr (.inr (.inr ⟨hp, rfl, ?_⟩)))
      rw [advanceWrite_lf (by simpa using hp), if_neg (by simp [he])]

end Sys2Proof.Machine
end

