-- ==== Sys2Proof/Laws/Run.lean ====
section
/-! SUPPORT. Sys2Proof/Laws/Run.lean: a run against an environment, one transaction, one group and one line terminator
at a time, so that a proof about an invocation never unfolds runWith. -/

namespace Sys2Proof.Machine

open Sys2Proof

variable {s t : State} {e : Environment} {k : Nat}

@[simp] theorem runWith_zero : runWith 0 e s = .next s := rfl

/-- A read request that is answered. -/
theorem runWith_read {w : RWord} {rest : List RWord} (hp : s.phase = .read) (he : e.reads = w :: rest)
    (hx : exec (decodeReadResponse w) s = .next t) :
    runWith (k + 1) e s = runWith k { e with reads := rest } t := by
  have ha : e.answer s = some (.r w, { e with reads := rest }) := by
    simp [Environment.answer, rdreq_iff.mpr hp, he]
  rw [runWith, ha]
  simp only [step_feedWord (w := .r w) (i := decodeReadResponse w) rfl, hx]

/-- A character on offer that is answered. -/
theorem runWith_write {c : Char8} {a : WWord} {rest : List WWord} (ho : s.offered = some c)
    (he : e.writes = a :: rest) (hx : exec (decodeWriteResponse a) s = .next t) :
    runWith (k + 1) e s = runWith k { e with writes := rest } t := by
  have hr : s.rdreq = false := rdreq_false_iff.mpr fun hp => by simp [State.offered, hp] at ho
  have ha : e.answer s = some (.w a, { e with writes := rest }) := by
    simp [Environment.answer, hr, ho, he]
  rw [runWith, ha]
  simp only [step_feedWord (w := .w a) (i := decodeWriteResponse a) rfl, hx]

/-- Where nothing is requested and nothing offered, or the agent asked does not answer, the state stays. -/
theorem runWith_of_no_answer (h : e.answer s = none) : runWith k e s = .next s := by
  cases k with
  | zero => rfl
  | succ k => simp [runWith, h]

/-- The state after a character is accepted. -/
theorem runWith_ack {c : Char8} {rest : List WWord} (ho : s.offered = some c) (he : e.writes = 0 :: rest) :
    runWith (k + 1) e s = runWith k { e with writes := rest } (advanceWrite (sinkAccept c s)) :=
  runWith_write ho he (exec_wack_eq_next.mpr ⟨c, ho, rfl⟩)

/-- The state after the four characters of a group are accepted. -/
def afterGroup (s : State) : State :=
  { s with
    snk := s.snk ++ s.obuf.chars
    k := 3
    cnt := s.cnt + 1
    phase := if lineGoesOn s.cnt s.eoi then .read else .cr }

/-- Four accepted characters write the group and count it (R103, R111). -/
theorem runWith_group {rest : List WWord} (hp : s.phase = .emit) (hk : s.k = 0)
    (he : e.writes = 0 :: 0 :: 0 :: 0 :: rest) :
    runWith (k + 4) e s = runWith k { e with writes := rest } (afterGroup s) := by
  have h0 : s.offered = some s.obuf.c0 := offered_eq_some_iff.mpr (.inl ⟨hp, by rw [hk]; rfl⟩)
  rw [runWith_ack h0 he, advanceWrite_emit_within (by simpa using hp) (by simp [hk])]
  rw [runWith_ack (c := s.obuf.c1) (rest := 0 :: 0 :: rest)
    (offered_eq_some_iff.mpr (.inl ⟨by simpa using hp, by simp [hk, Group.get]⟩)) rfl,
    advanceWrite_emit_within (by simpa using hp) (by simp [hk])]
  rw [runWith_ack (c := s.obuf.c2) (rest := 0 :: rest)
    (offered_eq_some_iff.mpr (.inl ⟨by simpa using hp, by simp [hk, Group.get]⟩)) rfl,
    advanceWrite_emit_within (by simpa using hp) (by simp [hk])]
  rw [runWith_ack (c := s.obuf.c3) (rest := rest)
    (offered_eq_some_iff.mpr (.inl ⟨by simpa using hp, by simp [hk, Group.get]⟩)) rfl,
    advanceWrite_emit_last (by simpa using hp) (by simp [hk])]
  simp [afterGroup, sinkAccept, Group.chars, hk]

/-- The state after a line terminator is accepted (R103). -/
def afterTerminator (s : State) : State :=
  { s with
    snk := s.snk ++ [Config.cr, Config.lf]
    cnt := if s.eoi then s.cnt else 0
    phase := if s.eoi then .done else .read }

/-- Two accepted characters write the line terminator (R103, R109). -/
theorem runWith_terminator {rest : List WWord} (hp : s.phase = .cr) (he : e.writes = 0 :: 0 :: rest) :
    runWith (k + 2) e s = runWith k { e with writes := rest } (afterTerminator s) := by
  rw [runWith_ack (c := Config.cr) (offered_eq_some_iff.mpr (.inr (.inl ⟨hp, rfl⟩))) he,
    advanceWrite_cr (by simpa using hp)]
  rw [runWith_ack (c := Config.lf) (rest := rest) (offered_eq_some_iff.mpr (.inr (.inr ⟨rfl, rfl⟩))) rfl,
    advanceWrite_lf rfl]
  cases hs : s.eoi <;> simp [afterTerminator, sinkAccept, hs]

end Sys2Proof.Machine
end

