-- ==== Sys2Proof/Tests/Slice0.lean ====
section
/-! SUPPORT. Sys2Proof/Tests/Slice0.lean: the model's own tests, with expected values from spec/95_test_vectors.md and
spec/30_encoding.md, and a named witness for the hypotheses of each statement. -/

namespace Sys2Proof.Tests

open Sys2Proof Sys2Proof.Machine

/-! ### WellFormed: a term that each check refuses -/

theorem test_wf_refuses_space : (Instr.putc 0x20).wf = false := by decide

theorem test_wf_refuses_cr_as_group_character : (Instr.putc 0x0D).wf = false := by decide

theorem test_wf_accepts_pad : (Instr.putc 0x3D).wf = true := by decide

/-! ### Decoding: words written out from the formats of 30_encoding.md -/

theorem test_decode_start : decode (.c 0b1) = .instr .start := by decide
theorem test_decode_no_command : decode (.c 0b0) = .reject .noCommand := by decide
theorem test_decode_rdreq : decode (.q 0b1) = .instr .rdreq := by decide
theorem test_decode_no_request : decode (.q 0b0) = .reject .noRequest := by decide
theorem test_decode_wack : decode (.w 0b0) = .instr .wack := by decide
theorem test_decode_wfail : decode (.w 0b1) = .instr .wfail := by decide
/-- P1: `0 11 01001101 01100001 01101110`. -/
theorem test_decode_enc3 : decode (.r 0b011010011010110000101101110) = .instr (.enc3 0x4D 0x61 0x6E) := by decide
/-- 95_test_vectors.md 2.2: `{0, 0b10, 4D, 61, FF}`. -/
theorem test_decode_enc2_dont_care : decode (.r 0b010010011010110000111111111) = .instr (.enc2 0x4D 0x61) := by decide
/-- 95_test_vectors.md 2.2: `{0, 0b01, 4D, AA, 55}`. -/
theorem test_decode_enc1_dont_care : decode (.r 0b001010011011010101001010101) = .instr (.enc1 0x4D) := by decide
theorem test_decode_end_dont_care : decode (.r 0b000111111111111111111111111) = .instr .endInput := by decide
/-- R135: ERR has priority over LEN. -/
theorem test_decode_rdfail_over_len : decode (.r 0b111010011010110000101101110) = .instr .rdfail := by decide
theorem test_decode_putc : decode (.o 0b01010100) = .instr (.putc 0x54) := by decide
theorem test_decode_putc_pad : decode (.o 0b00111101) = .instr (.putc 0x3D) := by decide
theorem test_decode_putcr : decode (.o 0b00001101) = .instr .putcr := by decide
theorem test_decode_putlf : decode (.o 0b00001010) = .instr .putlf := by decide
theorem test_decode_never_offered : decode (.o 0b00100000) = .reject .neverOffered := by decide
theorem test_decode_blk3 : decode (.b 0b11010011010110000101101110) = .instr (.blk3 0x4D 0x61 0x6E) := by decide
theorem test_decode_blk2 : decode (.b 0b10010011010110000100000000) = .instr (.blk2 0x4D 0x61) := by decide
theorem test_decode_blk1 : decode (.b 0b01010011010000000000000000) = .instr (.blk1 0x4D) := by decide
theorem test_decode_blk0 : decode (.b 0b00000000000000000000000000) = .instr .blk0 := by decide
/-- The script words of P1, P3 and P4. -/
theorem test_encode_script_words :
    encode (.enc3 0x4D 0x61 0x6E) = .r 0x34D616E ∧ encode (.enc2 0x4D 0x61) = .r 0x24D6100 ∧
      encode (.enc1 0x4D) = .r 0x14D0000 ∧ encode .rdfail = .r 0x4000000 := by decide

/-! ### The ROM and the block transform -/

/-- The codes of `ABCDEFGHIJKLMNOPQRSTUVWXYZabcdefghijklmnopqrstuvwxyz0123456789+/`, the table of R57. -/
theorem test_rom_table : romAddresses.map romRead =
    [0x41, 0x42, 0x43, 0x44, 0x45, 0x46, 0x47, 0x48, 0x49, 0x4A, 0x4B, 0x4C, 0x4D, 0x4E, 0x4F, 0x50] ++
    [0x51, 0x52, 0x53, 0x54, 0x55, 0x56, 0x57, 0x58, 0x59, 0x5A, 0x61, 0x62, 0x63, 0x64, 0x65, 0x66] ++
    [0x67, 0x68, 0x69, 0x6A, 0x6B, 0x6C, 0x6D, 0x6E, 0x6F, 0x70, 0x71, 0x72, 0x73, 0x74, 0x75, 0x76] ++
    [0x77, 0x78, 0x79, 0x7A, 0x30, 0x31, 0x32, 0x33, 0x34, 0x35, 0x36, 0x37, 0x38, 0x39, 0x2B, 0x2F] := by decide

/-- Vectors B9 to B12: one sextet at a time is 63. -/
theorem test_blk3_one_sextet_at_a_time :
    encodeBlock .three 0xFC 0x00 0x00 = { c0 := 0x2F, c1 := 0x41, c2 := 0x41, c3 := 0x41 } ∧
    encodeBlock .three 0x03 0xF0 0x00 = { c0 := 0x41, c1 := 0x2F, c2 := 0x41, c3 := 0x41 } ∧
    encodeBlock .three 0x00 0x0F 0xC0 = { c0 := 0x41, c1 := 0x41, c2 := 0x2F, c3 := 0x41 } ∧
    encodeBlock .three 0x00 0x00 0x3F = { c0 := 0x41, c1 := 0x41, c2 := 0x41, c3 := 0x2F } := by decide

/-- Vector B18 with a B2 lane that must not matter. -/
theorem test_blk2_zero_fill : encodeBlock .two 0xFF 0xFF 0xFF = { c0 := 0x2F, c1 := 0x2F, c2 := 0x38, c3 := 0x3D } := by
  decide

/-- Vector B26 with B1 and B2 lanes that must not matter. -/
theorem test_blk1_zero_fill : encodeBlock .one 0xFF 0xFF 0xFF = { c0 := 0x2F, c1 := 0x77, c2 := 0x3D, c3 := 0x3D } := by
  decide

/-! ### One step at a time -/

/-- A state in which every field is a plain value: the group `TWFu` of P1 stands in OBUF. -/
def sample (p : Phase) : State :=
  { ibuf := { b0 := 0x4D, b1 := 0x61, b2 := 0x6E }
    n := 3
    obuf := { c0 := 0x54, c1 := 0x57, c2 := 0x46, c3 := 0x75 }
    k := 0
    cnt := 0
    eoi := false
    phase := p
    cause := if p = .failed then .writeFailure else .none
    src := []
    snk := []
    script := []
    gout := none
    draws := 1 }

/-- Whether an outcome is a next state with a property. -/
def nextHas (o : Host.Outcome State Fault Refusal) (p : State → Bool) : Bool :=
  match o with
  | .next t => p t
  | .fault _ => false
  | .refused _ => false

/-- 95_test_vectors.md 2.7: FAILED with CAUSE = 2, CNT = 7, EOI = 1. -/
theorem test_start_from_failed : nextHas (exec .start { sample .failed with cnt := 7, eoi := true })
    (fun t => t.phase == .read && t.cnt == 0 && !t.eoi && t.cause.code == 0 && t.busy && t.rdreq) = true := by decide

/-- P7 row 4: START while a character is on offer. -/
theorem test_start_ignored_while_busy : exec .start { sample .emit with k := 1 } = .next { sample .emit with k := 1 } := by
  rfl

theorem test_rdreq_in_read : exec .rdreq (sample .read) = .next (sample .read) := by rfl
theorem test_rdreq_not_in_emit : exec .rdreq (sample .emit) = .fault .notDriven := by rfl

/-- P7 row 2: `ENC3 48 69 21` gives `SGkh`. -/
theorem test_enc3_group : nextHas (exec (.enc3 0x48 0x69 0x21) { sample .read with src := [0x48, 0x69, 0x21, 0x4D] })
    (fun t => t.obuf == { c0 := 0x53, c1 := 0x47, c2 := 0x6B, c3 := 0x68 } && t.k == 0 && t.n == 3 && !t.eoi &&
      t.phase == .emit && t.src == [0x4D]) = true := by decide

/-- P3 row 2: `ENC2 4D 61` gives `TWE=` and sets EOI. -/
theorem test_enc2_group : nextHas (exec (.enc2 0x4D 0x61) (sample .read))
    (fun t => t.obuf == { c0 := 0x54, c1 := 0x57, c2 := 0x45, c3 := 0x3D } && t.ibuf.b2 == 0 && t.n == 2 && t.eoi &&
      t.phase == .emit) = true := by decide

/-- P4 row 9: `ENC1 4D` gives `TQ==` and sets EOI. -/
theorem test_enc1_group : nextHas (exec (.enc1 0x4D) (sample .read))
    (fun t => t.obuf == { c0 := 0x54, c1 := 0x51, c2 := 0x3D, c3 := 0x3D } && t.ibuf.b1 == 0 && t.n == 1 && t.eoi &&
      t.phase == .emit) = true := by decide

/-- P1 row 7: END after one group. -/
theorem test_end_closes_line : nextHas (exec .endInput { sample .read with cnt := 1, k := 3 })
    (fun t => t.phase == .cr && t.eoi && t.cnt == 1 && t.k == 3 && t.obuf == (sample .read).obuf && t.gout == none) =
      true := by decide

/-- P4 row 7. -/
theorem test_rdfail : nextHas (exec .rdfail { sample .read with cnt := 1 })
    (fun t => t.phase == .failed && t.cause.code == 1 && t.cnt == 1 && !t.eoi && t.failOut && !t.busy) = true := by decide

/-- 95_test_vectors.md 2.7: a read response where nothing was requested. -/
theorem test_unrequested_read : exec (.enc1 0x4D) (sample .done) = .fault .unrequested := by rfl

/-- P1 row 3: K = 1 offers 0x57. -/
theorem test_putc_offers_obuf_k : exec (.putc 0x57) { sample .emit with k := 1 } = .next { sample .emit with k := 1 } := by
  rfl
theorem test_putc_other_character : exec (.putc 0x54) { sample .emit with k := 1 } = .fault .notDriven := by rfl
theorem test_putcr : exec .putcr (sample .cr) = .next (sample .cr) := by rfl
theorem test_putcr_not_in_lf : exec .putcr (sample .lf) = .fault .notDriven := by rfl
theorem test_putlf : exec .putlf (sample .lf) = .next (sample .lf) := by rfl
theorem test_putlf_not_in_cr : exec .putlf (sample .cr) = .fault .notDriven := by rfl

/-- P2 row 96: the 19th group fills the line. -/
theorem test_wack_fills_line : nextHas (exec .wack { sample .emit with k := 3, cnt := 18 })
    (fun t => t.phase == .cr && t.cnt == 19 && t.k == 3 && t.snk == [0x75]) = true := by decide

/-- P2 row 98 and P1 row 9: LF accepted, with end of input unknown and known. -/
theorem test_wack_after_lf :
    nextHas (exec .wack { sample .lf with cnt := 19 }) (fun t => t.phase == .read && t.cnt == 0 && t.snk == [0x0A]) = true ∧
    nextHas (exec .wack { sample .lf with cnt := 19, eoi := true })
      (fun t => t.phase == .done && t.cnt == 19 && t.doneOut) = true := by decide

/-- P3 row 5: the third write fails. -/
theorem test_wfail : nextHas (exec .wfail { sample .emit with k := 2, eoi := true })
    (fun t => t.phase == .failed && t.cause.code == 2 && t.k == 2 && t.eoi && t.cnt == 0) = true := by decide

/-- 95_test_vectors.md 2.7: a write response in IDLE. -/
theorem test_unrequested_write : exec .wfail (sample .idle) = .fault .unrequested := by rfl

/-- Vectors B8, B24 and B34 on the G-format. -/
theorem test_blk3_result : nextHas (exec (.blk3 0xD3 0x5D 0xB7) (sample .idle)) (fun t => t.gout == some 0x30313233) = true := by
  decide
theorem test_blk2_result : nextHas (exec (.blk2 0xFB 0xF0) (sample .idle)) (fun t => t.gout == some 0x2B2F413D) = true := by
  decide
theorem test_blk1_result : nextHas (exec (.blk1 0x80) (sample .idle)) (fun t => t.gout == some 0x67413D3D) = true := by
  decide
theorem test_blk0_refused : exec .blk0 (sample .read) = .refused .zeroByteBlock := by rfl

/-- P7 row 6: reset while a character is on offer. -/
theorem test_reset_event : nextHas (step ((sample .emit).feedLine .reset))
    (fun t => t.phase == .idle && t.cnt == 0 && !t.eoi && t.cause.code == 0 && !t.busy && t.script == []) = true := by decide

/-- R55: a C-format 0 is no event. -/
theorem test_no_command_step : step ((sample .read).feedLine (.word (.c 0))) = .next (sample .read) := by rfl

/-- R156: with no answer the encoder waits. -/
theorem test_waits : step (sample .read) = .next (sample .read) := by rfl

/-- Section 2.8: a short chunk while the source still holds a byte ends the input. -/
theorem test_short_chunk_leaves_source : nextHas (step (({ sample .read with src := [0x4D, 0x61, 0x6E] }).feedLine
    (.word (.r 0x24D6100)))) (fun t => t.src == [0x6E] && t.eoi) = true := by decide

/-- The host's placing of a table word runs it as the first step after reset. -/
theorem test_placed_words_run :
    nextHas (step (State.reset.withFetchWord 8 1)) (fun t => t.phase == .read) = true ∧
    nextHas (step (State.reset.withFetchWord 32 0x3000000)) (fun t => t.phase == .emit) = true ∧
    nextHas (step (State.reset.withFetchWord 8 0)) (fun t => t.phase == .lf) = true ∧
    nextHas (step (State.reset.withFetchWord 8 0x41)) (fun t => t.phase == .emit) = true := by decide

/-- R63 with L = 4: `ENC3`, then `ENC1`; vector X5 as a whole output. -/
theorem test_feed_and_text :
    feed [0x66, 0x6F, 0x6F, 0x62] = [0x3666F6F, 0x1620000] ∧
    outputText [0x66, 0x6F, 0x6F, 0x62] = [0x5A, 0x6D, 0x39, 0x76, 0x59, 0x67, 0x3D, 0x3D, 0x0D, 0x0A] := by decide

/-- Rows 55, 57 and 1000 of 95_test_vectors.md 2.3: output length and CNT at DONE. -/
theorem test_closed_forms :
    writeCount 55 = 78 ∧ finalCount 55 = 19 ∧ writeCount 57 = 80 ∧ finalCount 57 = 0 ∧ readCount 57 = 20 ∧
      writeCount 1000 = 1372 ∧ finalCount 1000 = 11 := by decide

/-! ### Witnesses: states and operands that meet the hypotheses of the statements -/

theorem sample_invariant (p : Phase) (h : p ≠ .done) : Invariant (sample p) := by
  constructor
  · simp [sample]
  · simp [sample]
  · exact fun _ => ⟨by simp [sample], .three, rfl, show (sample .emit).obuf = encodeBlock .three 0x4D 0x61 0x6E by decide⟩
  · exact fun hp => absurd hp h
  · cases p <;> simp [sample]

theorem witness_DecodeEncodeRoundTrip : (Instr.putc 0x2F).wf = true := by decide

theorem witness_OperationMapIsDecoded : (0x3D : OWord) = 0x3D ∧ romRead 63 = 0x2F := by decide

theorem witness_RomHoldsTheAlphabet :
    (25 : Sextet).toNat ≤ 25 ∧ 26 ≤ (26 : Sextet).toNat ∧ (51 : Sextet).toNat ≤ 51 ∧ 52 ≤ (52 : Sextet).toNat ∧
      (61 : Sextet).toNat ≤ 61 ∧ (62 : Sextet).toNat = 62 ∧ (63 : Sextet).toNat = 63 := by decide

theorem witness_BlockTransformIsInvertible : encodeBlock .two 0xFF 0xFF 0x00 = encodeBlock .two 0xFF 0xFF 0xFF := by decide

theorem witness_StartBeginsAnInvocation :
    (sample .idle).phase = .idle ∧ (sample .done).phase = .done ∧ (sample .failed).phase = .failed ∧
      (sample .read).phase = .read ∧ (sample .emit).phase = .emit ∧ (sample .cr).phase = .cr ∧
      (sample .lf).phase = .lf := by decide

theorem witness_ReadIsRequestedExactlyInRead :
    (sample .read).phase = .read ∧ exec .rdreq (sample .read) = .next (sample .read) := ⟨rfl, rfl⟩

theorem witness_FullChunkIsLoaded :
    ({ sample .read with src := [0xFF, 0x00, 0x01] }).phase = .read ∧
      ({ sample .read with src := [0xFF, 0x00, 0x01] }).src = 0xFF :: 0x00 :: 0x01 :: [] ∧
      ∃ t, exec (.enc3 0xFF 0x00 0x01) { sample .read with src := [0xFF, 0x00, 0x01] } = .next t :=
  ⟨rfl, rfl, _, rfl⟩

theorem witness_TwoByteChunkIsLoaded :
    ({ sample .read with src := [0xFF, 0x00] }).phase = .read ∧
      ({ sample .read with src := [0xFF, 0x00] }).src = 0xFF :: 0x00 :: [] ∧
      ∃ t, exec (.enc2 0xFF 0x00) { sample .read with src := [0xFF, 0x00] } = .next t :=
  ⟨rfl, rfl, _, rfl⟩

theorem witness_OneByteChunkIsLoaded :
    ({ sample .read with src := [0xFF] }).phase = .read ∧ ({ sample .read with src := [0xFF] }).src = 0xFF :: [] ∧
      ∃ t, exec (.enc1 0xFF) { sample .read with src := [0xFF] } = .next t :=
  ⟨rfl, rfl, _, rfl⟩

theorem witness_EndOfInputClosesTheLine : (sample .read).phase = .read ∧ ∃ t, exec .endInput (sample .read) = .next t :=
  ⟨rfl, _, rfl⟩

theorem witness_ReadFailureIsTaken : (sample .read).phase = .read ∧ ∃ t, exec .rdfail (sample .read) = .next t :=
  ⟨rfl, _, rfl⟩

theorem witness_GroupCharacterIsOffered :
    ({ sample .emit with k := 3 }).phase = .emit ∧
      ({ sample .emit with k := 3 }).obuf.chars[({ sample .emit with k := 3 }).k.toNat]? = some 0x75 ∧
      exec (.putc 0x75) { sample .emit with k := 3 } = .next { sample .emit with k := 3 } := ⟨rfl, rfl, rfl⟩

theorem witness_CarriageReturnIsOffered : (sample .cr).phase = .cr ∧ exec .putcr (sample .cr) = .next (sample .cr) :=
  ⟨rfl, rfl⟩

theorem witness_LineFeedIsOffered : (sample .lf).phase = .lf ∧ exec .putlf (sample .lf) = .next (sample .lf) :=
  ⟨rfl, rfl⟩

/-- One state per branch, at the boundary K = 2 and K = 3, and with CNT + 1 at 18 and at 19. -/
theorem witness_AcceptedCharacterAdvances :
    (({ sample .emit with k := 2 }).k.toNat < 3 ∧
      ({ sample .emit with k := 2 }).obuf.chars[({ sample .emit with k := 2 }).k.toNat]? = some 0x46) ∧
    (({ sample .emit with k := 3, cnt := 17 }).k = 3 ∧ ({ sample .emit with k := 3, cnt := 17 }).cnt.toNat + 1 < 19) ∧
    (({ sample .emit with k := 3, cnt := 18 }).k = 3 ∧
      ¬ ({ sample .emit with k := 3, cnt := 18 }).cnt.toNat + 1 < 19) ∧
    (sample .cr).phase = .cr ∧ ({ sample .lf with eoi := true }).eoi = true ∧ (sample .lf).eoi = false := by decide

theorem witness_WriteFailureIsTaken :
    (sample .emit).offered = some 0x54 ∧ (sample .cr).offered = some 0x0D ∧ (sample .lf).offered = some 0x0A ∧
      ∃ t, exec .wfail (sample .cr) = .next t := ⟨rfl, rfl, rfl, _, rfl⟩

/-- A transfer of each kind of row. -/
theorem witness_TransfersAreTheTable :
    (∃ t, exec .start (sample .idle) = .next t) ∧ (∃ t, exec .start (sample .emit) = .next t) ∧
      (∃ t, exec (.enc1 0x00) (sample .read) = .next t) ∧ (∃ t, exec .wack (sample .lf) = .next t) ∧
      (∃ t, exec .wfail (sample .cr) = .next t) ∧ (∃ t, exec (.blk1 0x00) (sample .idle) = .next t) :=
  ⟨⟨_, rfl⟩, ⟨_, rfl⟩, ⟨_, rfl⟩, ⟨_, rfl⟩, ⟨_, rfl⟩, ⟨_, rfl⟩⟩

theorem witness_AnswersRunExactlyWhereAsked :
    Instr.rdfail.isReadResponse = true ∧ Instr.wfail.isWriteResponse = true ∧ (sample .read).phase = .read ∧
      (sample .idle).phase ≠ .read ∧ (sample .emit).phase = .emit := by decide

theorem witness_FailureEntrySavesOnlyCause :
    (sample .emit).phase ≠ .failed ∧ (sample .failed).phase = .failed ∧
      ∃ t, exec .wfail (sample .emit) = .next t ∧ t.phase = .failed := ⟨by decide, rfl, _, rfl, rfl⟩

theorem witness_OnlyStartAndResetLeaveFailed :
    (∃ t, runLine (.word (.c 1)) (sample .failed) = .next t ∧ t.phase ≠ .failed) ∧
      ∃ t, runLine .reset (sample .failed) = .next t ∧ t.phase ≠ .failed :=
  ⟨⟨_, rfl, by decide⟩, _, rfl, by decide⟩

theorem witness_CauseIsWrittenOnlyByFailuresAndStart :
    (∃ t, exec .start (sample .failed) = .next t) ∧ (∃ t, exec .rdfail (sample .read) = .next t) ∧
      (∃ t, exec .wfail (sample .lf) = .next t) ∧ (∃ t, exec .start (sample .read) = .next t) :=
  ⟨⟨_, rfl⟩, ⟨_, rfl⟩, ⟨_, rfl⟩, ⟨_, rfl⟩⟩

/-- Words of 2 and of 3 bytes, a reset, and a START that clears a set EOI. -/
theorem witness_EndOfInputStaysKnown :
    (∃ t, runLine (.word (.r 0x24D6100)) (sample .read) = .next t) ∧
      (∃ t, runLine (.word (.r 0x34D616E)) (sample .read) = .next t) ∧
      (∃ t, runLine .reset (sample .read) = .next t) ∧
      (∃ t, runLine (.word (.c 1)) { sample .done with eoi := true } = .next t ∧ t.eoi = false) ∧
      RWord.err 0x24D6100 = false ∧ RWord.err 0x34D616E = false :=
  ⟨⟨_, rfl⟩, ⟨_, rfl⟩, ⟨_, rfl⟩, ⟨_, rfl, rfl⟩, by decide, by decide⟩

theorem witness_GroupCounterCountsALine :
    Invariant (sample .emit) ∧ (∃ t, exec .wack (sample .emit) = .next t) ∧ Invariant (sample .lf) ∧
      (∃ t, exec .wack (sample .lf) = .next t) ∧ Invariant (sample .failed) ∧
      ∃ t, exec .start (sample .failed) = .next t :=
  ⟨sample_invariant _ (by decide), ⟨_, rfl⟩, sample_invariant _ (by decide), ⟨_, rfl⟩, sample_invariant _ (by decide),
    _, rfl⟩

theorem witness_StatusOutputsFollowPhase : (sample .idle).phase = .idle := rfl

theorem witness_OfferedCharacterIsALegalCode : Invariant (sample .emit) ∧ (sample .emit).offered = some 0x54 :=
  ⟨sample_invariant _ (by decide), rfl⟩

/-- One value of each kind, the last ROM entry among them. -/
theorem witness_EveryLegalCodeIsOffered :
    (sample .done).phase.acceptsStart = true ∧ romRead 63 = 0x2F ∧
      (∀ i, romRead i ≠ 0x3D ∧ romRead i ≠ 0x0D ∧ romRead i ≠ 0x0A) := ⟨rfl, rfl, by decide⟩

theorem witness_ResetAbandonsTheInvocation :
    ((sample .read).feedLine .reset).script = .reset :: [] ∧ ((sample .read).feedLine .reset).phase = .read ∧
      ((sample .emit).feedLine .reset).phase ≠ .read := by decide

theorem witness_StepKeepsTheInvariant :
    Invariant (sample .read) ∧ ∃ t, step (sample .read) = .next t := ⟨sample_invariant _ (by decide), _, rfl⟩

theorem witness_SinkHoldsOnlyLegalCodes :
    Invariant (sample .emit) ∧ OnlyOfferedCodes (sample .emit) ∧ (Line.word (.w 0)).attaches = false ∧
      ∃ t, runLine (.word (.w 0)) (sample .emit) = .next t :=
  ⟨sample_invariant _ (by decide), by simp [OnlyOfferedCodes, sample], rfl, _, rfl⟩

theorem witness_SuccessEndsInALineTerminator :
    EndsAsWritten { sample .lf with snk := [0x0D] } ∧ (Line.word (.w 0)).attaches = false ∧
      (∃ t, runLine (.word (.w 0)) { sample .lf with snk := [0x0D] } = .next t) ∧ (sample .idle).phase = .idle :=
  ⟨⟨fun _ => List.suffix_refl _, fun h => absurd h (by decide)⟩, rfl, ⟨_, rfl⟩, rfl⟩

theorem witness_SinkGrowsByTheOfferedCharacter :
    (Line.word (.w 0)).attaches = false ∧ ∃ t, runLine (.word (.w 0)) (sample .cr) = .next t := ⟨rfl, _, rfl⟩

theorem witness_SourceIsConsumedFromItsFront :
    Line.reset.attaches = false ∧ (∃ t, runLine .reset (sample .read) = .next t) ∧ (sample .emit).rdreq = false :=
  ⟨rfl, ⟨_, rfl⟩, rfl⟩

theorem witness_OnlyChunksInvokeBlockCodec :
    Instr.wack.format ≠ .b ∧ (∃ t, exec .wack (sample .emit) = .next t) ∧
      ∃ t, exec (.enc1 0x4D) (sample .read) = .next t ∧ t.phase = .emit := ⟨by decide, ⟨_, rfl⟩, _, rfl, rfl⟩

theorem witness_NoReadAfterEndOfInput :
    Invariant { sample .emit with eoi := true } ∧ ({ sample .emit with eoi := true }).eoi = true ∧
      Instr.endInput.isReadResponse = true :=
  ⟨⟨by decide, fun h => absurd h (by decide), fun _ => ⟨by decide, .three, rfl, by decide⟩,
    fun h => absurd h (by decide), by decide⟩, rfl, rfl⟩

theorem witness_StepRunsTheDecodedOperation :
    ((sample .read).feedLine (.word (.r 0x0000000))).script = .word (.r 0x0000000) :: [] ∧
      decode (.r 0x0000000) = .instr .endInput := by decide

theorem witness_EncoderWaitsForItsEnvironment : (sample .read).script = [] := rfl

theorem witness_NoCommandIsNoEvent : ((sample .idle).feedLine (.word (.c 0))).script = .word (.c 0) :: [] := rfl

theorem witness_AttachingChangesOnlyTheStream :
    ((sample .idle).feedLine (.attachSource [0x4D])).script = .attachSource [0x4D] :: [] ∧
      ((sample .idle).feedLine (.attachSink [])).script = .attachSink [] :: [] := ⟨rfl, rfl⟩

theorem witness_PlacedWordRunsNext :
    decodeTableWord 32 0x4000000 = some .rdfail ∧ decodeTableWord 8 0x0A = some .putlf ∧ Instr.rdfail ≠ .blk0 := by decide

theorem witness_CanonicalInvocationWritesItsText :
    ({ sample .done with src := [0x4D, 0x61, 0x6E] }).phase.acceptsStart = true ∧
      ({ sample .done with src := [0x4D, 0x61, 0x6E] }).src = [0x4D, 0x61, 0x6E] ∧
      0 < readCount 3 + writeCount 3 := by decide

theorem witness_FailedWriteLeavesAPrefix :
    (sample .failed).phase.acceptsStart = true ∧ (sample .failed).src = [] ∧ 0 < writeCount 0 ∧
      1 < writeCount ([] : List Byte).length := by decide

theorem witness_GroupIsWrittenAtOnce :
    (sample .read).phase = .read ∧ RWord.err 0x34D616E = false ∧ refBlock 0x34D616E = some (sample .read).obuf ∧
      (3 : Nat) < 4 := by decide

theorem witness_EmptyInputWritesOneTerminator : (sample .idle).phase.acceptsStart = true := rfl

theorem witness_FullLinesAreFollowedByABareTerminator :
    (List.replicate 57 (0x00 : Byte)).length = 57 * 1 ∧ ([] : List Byte).length = 57 * 0 ∧ (0 : Nat) < 1 := by decide

theorem witness_StepsPerformTheReferenceAlgorithm : (sample .idle).phase.acceptsStart = true := rfl

theorem witness_StartForgetsEarlierInvocations :
    (sample .idle).phase.acceptsStart = true ∧ ({ sample .done with k := 3, cnt := 19 }).phase.acceptsStart = true ∧
      (sample .idle).src = ({ sample .done with k := 3, cnt := 19 }).src ∧
      (sample .idle).snk = ({ sample .done with k := 3, cnt := 19 }).snk ∧
      (sample .idle).script = ({ sample .done with k := 3, cnt := 19 }).script ∧
      (sample .idle).draws = ({ sample .done with k := 3, cnt := 19 }).draws := by decide

theorem witness_StepKeepsStatesIndistinguishable :
    Indistinguishable (sample .read) { sample .read with k := 3, n := 1 } := by
  simp [Indistinguishable, sample]

end Sys2Proof.Tests
end

section
/-! Proofs of the statements about the scope (spec/00_scope.md). -/

namespace Sys2Proof.Proofs

open Sys2Proof Sys2Proof.Machine

/-- Settles O46: the step takes the next line (`step_cons`), and a line that is a word runs the operation it decodes
to (`step_feedWord`). -/
theorem stepRunsTheDecodedOperation : Obligations.StepRunsTheDecodedOperation := by
  intro s w rest i hscript hdecode
  calc step s
      = runLine (.word w) { s with script := rest } := step_cons hscript
    _ = step (State.feedLine { s with script := rest } (.word w)) := (step_feedLine _ _).symm
    _ = exec i { s with script := rest } := step_feedWord hdecode

end Sys2Proof.Proofs
end

section
/-! Proofs of the statements about the state (spec/10_state.md): first everything an operation can do to the state, then
the registers CAUSE, EOI and CNT, the status outputs, the invariant of R25, and what an invocation lets be seen of
earlier ones. -/

namespace Sys2Proof.Proofs

open Sys2Proof Sys2Proof.Machine

/-! ### Everything an operation can do -/

/-- The ways an operation can have a next state, by the rows of R116. `still` gathers the operations that write no
register and no stream: those the encoder and BlockCodec issue, and a START while an invocation runs. -/
inductive Transfer (s : State) : Instr → State → Prop
  | start (ha : s.phase.acceptsStart = true) : Transfer s .start (beginInvocation s)
  | still {i : Instr} {t : State} (hstart : i = .start → s.phase.acceptsStart = false)
      (hread : i.isReadResponse = false) (hwrite : i.isWriteResponse = false) (hsame : SameMachine t s) :
      Transfer s i t
  | chunk {i : Instr} (hread : i.isReadResponse = true) (hok : i ≠ .rdfail) (n : ChunkLen) (b0 b1 b2 : Byte)
      (hp : s.phase = .read) : Transfer s i (receiveChunk n b0 b1 b2 s)
  | endInput (hp : s.phase = .read) : Transfer s .endInput { s with eoi := true, phase := .cr }
  | rdfail (hp : s.phase = .read) : Transfer s .rdfail (raiseFailure .readFailure (loseBytes s))
  | nextChar (c : Char8) (hp : s.phase = .emit) (hk : s.k.toNat < 3) :
      Transfer s .wack { sinkAccept c s with k := s.k + 1 }
  | groupDone (c : Char8) (hp : s.phase = .emit) (hk : s.k = 3) :
      Transfer s .wack
        { sinkAccept c s with cnt := s.cnt + 1, phase := if lineGoesOn s.cnt s.eoi then .read else .cr }
  | crDone (c : Char8) (hp : s.phase = .cr) : Transfer s .wack { sinkAccept c s with phase := .lf }
  | lastLine (c : Char8) (hp : s.phase = .lf) (he : s.eoi = true) :
      Transfer s .wack { sinkAccept c s with phase := .done }
  | nextLine (c : Char8) (hp : s.phase = .lf) (he : s.eoi = false) :
      Transfer s .wack { sinkAccept c s with cnt := 0, phase := .read }
  | wfail (c : Char8) (ho : s.offered = some c) :
      Transfer s .wfail (raiseFailure .writeFailure (mayAppend c s))

section
variable {s t : State} {i : Instr}

theorem sameMachine_refl (s : State) : SameMachine s s := by simp [SameMachine, SameRegisters]

theorem sameMachine_blockResult (g : Group) (s : State) : SameMachine (blockResult g s) s := sameMachine_refl s

/-- Every operation with a next state is one of the transfers. -/
theorem transfer_of_exec (h : exec i s = .next t) : Transfer s i t := by
  cases i with
  | start =>
    obtain rfl := exec_start_eq_next.mp h
    cases ha : s.phase.acceptsStart with
    | true => exact .start ha
    | false => exact .still (fun _ => ha) rfl rfl (sameMachine_refl s)
  | rdreq =>
    obtain ⟨-, rfl⟩ := exec_rdreq_eq_next.mp h
    exact .still nofun rfl rfl (sameMachine_refl t)
  | enc3 b0 b1 b2 =>
    obtain ⟨hp, rfl⟩ := exec_enc3_eq_next.mp h
    exact .chunk rfl (by simp) .three b0 b1 b2 hp
  | enc2 b0 b1 =>
    obtain ⟨hp, rfl⟩ := exec_enc2_eq_next.mp h
    exact .chunk rfl (by simp) .two b0 b1 0 hp
  | enc1 b0 =>
    obtain ⟨hp, rfl⟩ := exec_enc1_eq_next.mp h
    exact .chunk rfl (by simp) .one b0 0 0 hp
  | endInput =>
    obtain ⟨hp, rfl⟩ := exec_endInput_eq_next.mp h
    exact .endInput hp
  | rdfail =>
    obtain ⟨hp, rfl⟩ := exec_rdfail_eq_next.mp h
    exact .rdfail hp
  | putc c =>
    obtain ⟨-, rfl⟩ := exec_putc_eq_next.mp h
    exact .still nofun rfl rfl (sameMachine_refl t)
  | putcr =>
    obtain ⟨-, rfl⟩ := exec_putcr_eq_next.mp h
    exact .still nofun rfl rfl (sameMachine_refl t)
  | putlf =>
    obtain ⟨-, rfl⟩ := exec_putlf_eq_next.mp h
    exact .still nofun rfl rfl (sameMachine_refl t)
  | wack =>
    rcases exec_wack_cases h with
      ⟨hp, hk, rfl⟩ | ⟨hp, hk, rfl⟩ | ⟨hp, rfl⟩ | ⟨hp, he, rfl⟩ | ⟨hp, he, rfl⟩
    · exact .nextChar _ hp hk
    · exact .groupDone _ hp hk
    · exact .crDone _ hp
    · exact .lastLine _ hp he
    · exact .nextLine _ hp he
  | wfail =>
    obtain ⟨c, ho, rfl⟩ := exec_wfail_eq_next.mp h
    exact .wfail c ho
  | blk3 b0 b1 b2 =>
    obtain rfl := exec_blk3_eq_next.mp h
    exact .still nofun rfl rfl (sameMachine_blockResult _ s)
  | blk2 b0 b1 =>
    obtain rfl := exec_blk2_eq_next.mp h
    exact .still nofun rfl rfl (sameMachine_blockResult _ s)
  | blk1 b0 =>
    obtain rfl := exec_blk1_eq_next.mp h
    exact .still nofun rfl rfl (sameMachine_blockResult _ s)
  | blk0 => exact absurd h exec_blk0_ne_next

end

/-! ### The invariant of R25 -/

section
variable {s t : State} {i : Instr}

/-- The invariant is about the registers alone. -/
theorem invariant_of_sameRegisters (h : SameRegisters t s) (hs : Invariant s) : Invariant t := by
  obtain ⟨hibuf, hn, hobuf, -, hcnt, heoi, hphase, hcause⟩ := h
  constructor
  · rw [hcnt]; exact hs.count_le
  · rw [hphase, hcnt, heoi]; exact hs.reading
  · rw [hphase, hcnt, hn, hobuf, hibuf]; exact hs.emitting
  · rw [hphase, heoi]; exact hs.finished
  · rw [hphase, hcause]; exact hs.failed_iff_cause

/-- What R24 gives a reset is enough for R25. -/
theorem invariant_of_idle (hphase : s.phase = .idle) (hcnt : s.cnt = 0) (hcause : s.cause = .none) : Invariant s := by
  constructor <;> simp [hphase, hcnt, hcause]

theorem invariant_resetEvent (s : State) : Invariant (resetEvent s) := invariant_of_idle rfl rfl rfl

/-- Outside FAILED no cause is recorded, from R25 (e) and (f). -/
theorem cause_eq_none_of_not_failed (hs : Invariant s) (hp : s.phase ≠ .failed) : s.cause = .none :=
  not_not.mp (mt hs.failed_iff_cause.mpr hp)

theorem invariant_beginInvocation (s : State) : Invariant (beginInvocation s) := by
  constructor <;> simp

/-- OBUF is formed of the bytes as they arrive, and is the same formed of the zero-filled IBUF. -/
theorem invariant_receiveChunk (hs : Invariant s) (hp : s.phase = .read) (n : ChunkLen) (b0 b1 b2 : Byte) :
    Invariant (receiveChunk n b0 b1 b2 s) := by
  have hcause := cause_eq_none_of_not_failed hs (by simp [hp])
  exact {
    count_le := hs.count_le
    reading := by simp
    emitting := fun _ => ⟨(hs.reading hp).1, n, rfl, (encodeBlock_fillChunk n b0 b1 b2).symm⟩
    finished := by simp
    failed_iff_cause := by simp [hcause] }

theorem invariant_raiseFailure {c : Cause} (hs : s.cnt.toNat ≤ 19) (hc : c ≠ .none) : Invariant (raiseFailure c s) := by
  constructor <;> simp [hs, hc]

/-- R103 reads on only where the new count is below 19 and end of input unknown, which is R25 (b). -/
theorem invariant_groupDone (hs : Invariant s) (hp : s.phase = .emit) (c : Char8) :
    Invariant { sinkAccept c s with cnt := s.cnt + 1, phase := if lineGoesOn s.cnt s.eoi then .read else .cr } := by
  have hcnt := (hs.emitting hp).1
  have hcause := cause_eq_none_of_not_failed hs (by simp [hp])
  have hnowrap : (s.cnt.toNat + 1) % 32 = s.cnt.toNat + 1 := Nat.mod_eq_of_lt (by omega)
  cases hl : lineGoesOn s.cnt s.eoi with
  | true => constructor <;> simp [hcause, hnowrap, hcnt, lineGoesOn_iff.mp hl]
  | false => constructor <;> simp [hcause, hnowrap, hcnt]

theorem exec_keeps_invariant (hs : Invariant s) (h : exec i s = .next t) : Invariant t := by
  cases transfer_of_exec h with
  | start => exact invariant_beginInvocation s
  | still _ _ _ hsame => exact invariant_of_sameRegisters hsame.1 hs
  | chunk _ _ n b0 b1 b2 hp => exact invariant_receiveChunk hs hp n b0 b1 b2
  | endInput hp =>
    constructor <;> simp [hs.count_le, cause_eq_none_of_not_failed hs, hp]
  | rdfail => exact invariant_raiseFailure hs.count_le nofun
  | nextChar c hp _ =>
    constructor <;> simp [hs.count_le, hs.emitting hp, cause_eq_none_of_not_failed hs, hp]
  | groupDone c hp _ => exact invariant_groupDone hs hp c
  | crDone c hp =>
    constructor <;> simp [hs.count_le, cause_eq_none_of_not_failed hs, hp]
  | lastLine c hp he =>
    constructor <;> simp [hs.count_le, cause_eq_none_of_not_failed hs, hp, he]
  | nextLine c hp he =>
    constructor <;> simp [cause_eq_none_of_not_failed hs, hp, he]
  | wfail => exact invariant_raiseFailure hs.count_le nofun

theorem runLine_keeps_invariant {l : Line} (hs : Invariant s) (h : runLine l s = .next t) : Invariant t := by
  rcases runLine_next_cases h with
    ⟨-, rfl⟩ | ⟨b, -, rfl⟩ | ⟨b, -, rfl⟩ | ⟨w, i, -, -, hexec⟩ | ⟨w, r, -, -, rfl⟩
  · exact invariant_resetEvent s
  · exact invariant_of_sameRegisters (sameMachine_refl s).1 hs
  · exact invariant_of_sameRegisters (sameMachine_refl s).1 hs
  · exact exec_keeps_invariant hs hexec
  · exact hs

theorem step_keeps_invariant (hs : Invariant s) (h : step s = .next t) : Invariant t := by
  rcases step_next_cases h with ⟨-, rfl⟩ | ⟨l, rest, -, hline⟩
  · exact hs
  · have htaken : Invariant { s with script := rest } := invariant_of_sameRegisters (sameMachine_refl s).1 hs
    exact runLine_keeps_invariant htaken hline

end

/-- R17: the code 7 belongs to no PHASE. -/
theorem phase_code_ne_seven : ∀ p : Phase, p.code ≠ 7 := by
  intro p; cases p <;> decide

/-- R18: the code 3 belongs to no CAUSE. -/
theorem cause_code_ne_three : ∀ c : Cause, c.code ≠ 3 := by
  intro c; cases c <;> decide

/-- Settles O39: a step waits or runs a line, a line is a reset, an attachment or a word, and an operation is one of the
transfers, each of which keeps R25 (a) to (f); R25 g is in the types of PHASE and CAUSE. -/
theorem stepKeepsTheInvariant : Obligations.StepKeepsTheInvariant := by
  intro s t hs h
  exact ⟨step_keeps_invariant hs h, phase_code_ne_seven _, cause_code_ne_three _⟩

/-- Settles O38: the reset state is in IDLE with CNT and CAUSE cleared. -/
theorem resetMeetsTheInvariant : Obligations.ResetMeetsTheInvariant := invariant_of_idle rfl rfl rfl

/-! ### The status outputs and the reset state -/

theorem busy_iff {s : State} :
    s.busy = true ↔ s.phase = .read ∨ s.phase = .emit ∨ s.phase = .cr ∨ s.phase = .lf := by
  unfold State.busy
  cases s.phase <;> simp

theorem doneOut_iff {s : State} : s.doneOut = true ↔ s.phase = .done := beq_iff_eq

theorem failOut_iff {s : State} : s.failOut = true ↔ s.phase = .failed := beq_iff_eq

/-- Settles O34: each output is the test of PHASE that R19 gives, and the tests exclude each other. -/
theorem statusOutputsFollowPhase : Obligations.StatusOutputsFollowPhase := by
  intro s
  refine ⟨busy_iff, doneOut_iff, failOut_iff, ?_, ?_⟩
  · unfold State.busy State.doneOut State.failOut
    cases s.phase <;> decide
  · intro hp
    simp only [← Bool.not_eq_true, busy_iff, doneOut_iff, failOut_iff, hp]
    decide

/-- Settles O36: R24 gives each of these registers its value, and in IDLE no port is driven. -/
theorem resetStateIsIdle : Obligations.ResetStateIsIdle :=
  ⟨rfl, rfl, rfl, rfl, rfl, rfl, rfl, rdreq_false_iff.mpr nofun, offered_eq_none_iff.mpr ⟨nofun, nofun, nofun⟩⟩

/-! ### CAUSE, CNT and EOI -/

/-- Settles O31: of the transfers only an accepted START and the two failures write CAUSE. -/
theorem causeIsWrittenOnlyByFailuresAndStart : Obligations.CauseIsWrittenOnlyByFailuresAndStart := by
  intro i s t h
  refine ⟨cause_code_ne_three _, ?_⟩
  cases transfer_of_exec h with
  | start ha => simp [ha, Cause.code]
  | still hstart hread hwrite hsame =>
    obtain ⟨⟨-, -, -, -, -, -, -, hcause⟩, -, -⟩ := hsame
    exact ⟨fun hi ha => by simp [hstart hi] at ha, fun hi => by simp [hi, Instr.isReadResponse] at hread,
      fun hi => by simp [hi, Instr.isWriteResponse] at hwrite, fun _ _ _ => hcause⟩
  | chunk hread hok =>
    exact ⟨fun hi => by simp [hi, Instr.isReadResponse] at hread, fun hi => absurd hi hok,
      fun hi => by simp [hi, Instr.isReadResponse] at hread, fun _ _ _ => rfl⟩
  | rdfail => simp [Cause.code]
  | wfail => simp [Cause.code]
  | endInput | nextChar | groupDone | crDone | lastLine | nextLine => simp

/-- Settles O33: that CNT stays at most 19 is R25 (a), kept by every operation; of the transfers an accepted START and
the WACK that begins a line clear it, and the WACK that ends a group counts. -/
theorem groupCounterCountsALine : Obligations.GroupCounterCountsALine := by
  intro i s t hs h
  refine ⟨(exec_keeps_invariant hs h).count_le, ?_⟩
  cases transfer_of_exec h with
  | start ha => simp [ha]
  | still hstart hread hwrite hsame =>
    obtain ⟨⟨-, -, -, -, hcnt, -⟩, -⟩ := hsame
    have hwack : i ≠ .wack := fun hi => by simp [hi, Instr.isWriteResponse] at hwrite
    have hidle : ¬ (i = .start ∧ s.phase.acceptsStart = true) := fun ⟨hi, ha⟩ => by simp [hstart hi] at ha
    simp [hwack, hidle, hcnt]
  | chunk hread =>
    have hstart : i ≠ .start := fun hi => by simp [hi, Instr.isReadResponse] at hread
    have hwack : i ≠ .wack := fun hi => by simp [hi, Instr.isReadResponse] at hread
    simp [hstart, hwack]
  | nextChar c hp hk =>
    have hk3 : s.k ≠ 3#2 := fun h3 => by simp [h3] at hk
    simp [hp, hk3]
  | groupDone c hp hk =>
    have hcnt := (hs.emitting hp).1
    simp [hp, hk]
    omega
  | crDone c hp => simp [hp]
  | lastLine c hp he => simp [hp, he]
  | nextLine c hp he => simp [hp, he]
  | endInput | rdfail | wfail => simp

section
variable {s t : State} {i : Instr}

/-- START is the C-format 1 and no other word (R55, R60). -/
theorem eq_command_of_decode_start {w : PortWord} (h : decode w = .instr .start) : w = .c 1 := by
  cases w with
  | c w =>
    simp only [decode, decodeCommand] at h
    split_ifs at h with hw
    rw [hw]
  | q w => simp only [decode, decodeRequest] at h; split_ifs at h; simp at h
  | r w => simp only [decode, decodeReadResponse, Decoded.instr.injEq] at h; split_ifs at h
  | w w => simp only [decode, decodeWriteResponse, Decoded.instr.injEq] at h; split_ifs at h
  | b w => simp only [decode, decodeBlock, Decoded.instr.injEq] at h; split_ifs at h
  | o w => simp only [decode, decodeOffer] at h; split_ifs at h <;> simp at h

theorem eoiAfterRead_eq (n : Nat) (e : Bool) : eoiAfterRead n e = if n < 3 then true else e := rfl

/-- A known end of input stays known in a read of any length (R16). -/
theorem eoiAfterRead_true (n : Nat) : eoiAfterRead n true = true := by simp [eoiAfterRead]

/-- A read response without ERR does to EOI what its LEN says (R16, R107). -/
theorem eoi_of_readResponse {w : RWord} (herr : RWord.err w = false) (h : exec (decodeReadResponse w) s = .next t) :
    t.eoi = if (RWord.len w).toNat < 3 then true else s.eoi := by
  unfold decodeReadResponse at h
  rw [herr, if_neg Bool.false_ne_true] at h
  split_ifs at h with h3 h2 h1
  · obtain ⟨-, rfl⟩ := exec_enc3_eq_next.mp h
    simp [h3, eoiAfterRead_eq]
  · obtain ⟨-, rfl⟩ := exec_enc2_eq_next.mp h
    simp [h2, eoiAfterRead_eq]
  · obtain ⟨-, rfl⟩ := exec_enc1_eq_next.mp h
    simp [h1, eoiAfterRead_eq]
  · obtain ⟨-, rfl⟩ := exec_endInput_eq_next.mp h
    have hlen : (RWord.len w).toNat ≠ 3 := fun hl => h3 (BitVec.eq_of_toNat_eq hl)
    have hlt : (RWord.len w).toNat < 3 := by have := (RWord.len w).isLt; omega
    simp [hlt]

/-- Of the operations only an accepted START clears EOI (R16). -/
theorem start_of_eoi_cleared (h : exec i s = .next t) (hs : s.eoi = true) (ht : t.eoi = false) :
    i = .start ∧ s.phase.acceptsStart = true := by
  cases transfer_of_exec h with
  | start ha => exact ⟨rfl, ha⟩
  | still _ _ _ hsame =>
    obtain ⟨⟨-, -, -, -, -, heoi, -⟩, -⟩ := hsame
    simp [heoi, hs] at ht
  | chunk => simp [hs, eoiAfterRead_true] at ht
  | endInput | rdfail | nextChar | groupDone | crDone | lastLine | nextLine | wfail => simp [hs] at ht

end

/-- Settles O32: the words by what they decode to, and of all lines only a reset and an accepted START clear EOI. -/
theorem endOfInputStaysKnown : Obligations.EndOfInputStaysKnown := by
  intro l s t h
  refine ⟨?_, ?_, ?_, ?_⟩
  · rintro rfl
    cases h
    rfl
  · rintro rfl ha
    obtain rfl := exec_start_eq_next.mp (show exec .start s = .next t from h)
    simp [ha]
  · rintro w rfl herr
    exact eoi_of_readResponse herr h
  · intro hs ht
    rcases runLine_next_cases h with
      ⟨rfl, -⟩ | ⟨b, -, rfl⟩ | ⟨b, -, rfl⟩ | ⟨w, i, rfl, hdecode, hexec⟩ | ⟨w, r, -, -, rfl⟩
    · exact .inl rfl
    · simp [hs] at ht
    · simp [hs] at ht
    · obtain ⟨rfl, ha⟩ := start_of_eoi_cleared hexec hs ht
      exact .inr ⟨by rw [eq_command_of_decode_start hdecode], ha⟩
    · simp [hs] at ht

/-! ### States that cannot be told apart (R23) -/

section
variable {s t : State}

/-- After an invocation begins nothing but the streams and the environment can differ. -/
theorem indistinguishable_beginInvocation (hsrc : s.src = t.src) (hsnk : s.snk = t.snk)
    (hscript : s.script = t.script) (hdraws : s.draws = t.draws) :
    Indistinguishable (beginInvocation s) (beginInvocation t) := by
  simp [Indistinguishable, hsrc, hsnk, hscript, hdraws]

variable (h : Indistinguishable s t)
include h

theorem phase_eq_of_indistinguishable : s.phase = t.phase := h.1

/-- The two states drive the source's port alike. -/
theorem rdreq_eq_of_indistinguishable : s.rdreq = t.rdreq := by
  rw [Bool.eq_iff_iff, rdreq_iff, rdreq_iff, phase_eq_of_indistinguishable h]

/-- The two states drive the sink's port alike: OBUF and K agree wherever they are offered. -/
theorem offered_eq_of_indistinguishable : s.offered = t.offered := by
  obtain ⟨hphase, -, -, -, -, -, -, hgroup⟩ := h
  ext c
  rw [offered_eq_some_iff, offered_eq_some_iff, ← hphase]
  refine or_congr_left (and_congr_right fun hp => ?_)
  obtain ⟨hobuf, hk⟩ := hgroup hp
  rw [hobuf, hk]

theorem indistinguishable_withScript (rest : List Line) :
    Indistinguishable { s with script := rest } { t with script := rest } := by
  obtain ⟨hphase, hcause, hsrc, hsnk, -, hdraws, hbusy, hgroup⟩ := h
  exact ⟨hphase, hcause, hsrc, hsnk, rfl, hdraws, hbusy, hgroup⟩

theorem indistinguishable_withSrc (bytes : List Byte) :
    Indistinguishable { s with src := bytes } { t with src := bytes } := by
  obtain ⟨hphase, hcause, -, hsnk, hscript, hdraws, hbusy, hgroup⟩ := h
  exact ⟨hphase, hcause, rfl, hsnk, hscript, hdraws, hbusy, hgroup⟩

theorem indistinguishable_withSnk (chars : List Char8) :
    Indistinguishable { s with snk := chars } { t with snk := chars } := by
  obtain ⟨hphase, hcause, hsrc, -, hscript, hdraws, hbusy, hgroup⟩ := h
  exact ⟨hphase, hcause, hsrc, rfl, hscript, hdraws, hbusy, hgroup⟩

/-- What BlockCodec returns is seen by no transaction. -/
theorem indistinguishable_blockResult (g : Group) : Indistinguishable (blockResult g s) (blockResult g t) := h

theorem indistinguishable_loseBytes : Indistinguishable (loseBytes s) (loseBytes t) := by
  obtain ⟨hphase, hcause, hsrc, hsnk, hscript, hdraws, hbusy, hgroup⟩ := h
  exact ⟨hphase, hcause, by simp [hsrc, hdraws], hsnk, hscript, by simp [hdraws], hbusy, hgroup⟩

theorem indistinguishable_mayAppend (c : Char8) : Indistinguishable (mayAppend c s) (mayAppend c t) := by
  obtain ⟨hphase, hcause, hsrc, hsnk, hscript, hdraws, hbusy, hgroup⟩ := h
  exact ⟨hphase, hcause, hsrc, by simp [hsnk, hdraws], hscript, by simp [hdraws], hbusy, hgroup⟩

theorem indistinguishable_sinkAccept (c : Char8) : Indistinguishable (sinkAccept c s) (sinkAccept c t) := by
  obtain ⟨hphase, hcause, hsrc, hsnk, hscript, hdraws, hbusy, hgroup⟩ := h
  exact ⟨hphase, hcause, hsrc, by simp [hsnk], hscript, hdraws, hbusy, hgroup⟩

/-- In FAILED, CNT, EOI, OBUF and K may differ as they please. -/
theorem indistinguishable_raiseFailure (c : Cause) : Indistinguishable (raiseFailure c s) (raiseFailure c t) := by
  obtain ⟨-, -, hsrc, hsnk, hscript, hdraws, -, -⟩ := h
  simp [Indistinguishable, busy_iff, hsrc, hsnk, hscript, hdraws]

/-- A chunk overwrites OBUF and K; CNT and EOI agreed while the read was requested. -/
theorem indistinguishable_receiveChunk (hp : s.phase = .read) (n : ChunkLen) (b0 b1 b2 : Byte) :
    Indistinguishable (receiveChunk n b0 b1 b2 s) (receiveChunk n b0 b1 b2 t) := by
  obtain ⟨-, hcause, hsrc, hsnk, hscript, hdraws, hbusy, -⟩ := h
  obtain ⟨hcnt, heoi⟩ := hbusy (busy_iff.mpr (.inl hp))
  simp [Indistinguishable, hcause, hsrc, hsnk, hscript, hdraws, hcnt, heoi]

theorem indistinguishable_endInput (hp : s.phase = .read) :
    Indistinguishable { s with eoi := true, phase := .cr } { t with eoi := true, phase := .cr } := by
  obtain ⟨-, hcause, hsrc, hsnk, hscript, hdraws, hbusy, -⟩ := h
  obtain ⟨hcnt, -⟩ := hbusy (busy_iff.mpr (.inl hp))
  simp [Indistinguishable, hcause, hsrc, hsnk, hscript, hdraws, hcnt]

/-- Where an accepted character leads rests on K, CNT and EOI, and they agree where they are asked. -/
theorem indistinguishable_advanceWrite {c : Char8} (ho : s.offered = some c) :
    Indistinguishable (advanceWrite s) (advanceWrite t) := by
  obtain ⟨hphase, hcause, hsrc, hsnk, hscript, hdraws, hbusy, hgroup⟩ := h
  rcases offered_eq_some_iff.mp ho with ⟨hp, -⟩ | ⟨hp, -⟩ | ⟨hp, -⟩
  · obtain ⟨hcnt, heoi⟩ := hbusy (busy_iff.mpr (.inr (.inl hp)))
    obtain ⟨hobuf, hk⟩ := hgroup hp
    have ht : t.phase = .emit := hphase ▸ hp
    by_cases hlt : s.k.toNat < 3
    · rw [advanceWrite_emit_within hp hlt, advanceWrite_emit_within ht (hk ▸ hlt)]
      simp [Indistinguishable, hphase, hcause, hsrc, hsnk, hscript, hdraws, hcnt, heoi, hobuf, hk]
    · rw [advanceWrite_emit_last hp hlt, advanceWrite_emit_last ht (hk ▸ hlt)]
      simp [Indistinguishable, hcause, hsrc, hsnk, hscript, hdraws, hcnt, heoi, hobuf, hk]
  · obtain ⟨hcnt, heoi⟩ := hbusy (busy_iff.mpr (.inr (.inr (.inl hp))))
    rw [advanceWrite_cr hp, advanceWrite_cr (hphase ▸ hp)]
    simp [Indistinguishable, hcause, hsrc, hsnk, hscript, hdraws, hcnt, heoi]
  · obtain ⟨hcnt, heoi⟩ := hbusy (busy_iff.mpr (.inr (.inr (.inr hp))))
    rw [advanceWrite_lf hp, advanceWrite_lf (hphase ▸ hp), ← heoi]
    split <;> simp [Indistinguishable, hcause, hsrc, hsnk, hscript, hdraws, hcnt, heoi]

theorem indistinguishable_withdraw : Indistinguishable (withdraw s) (withdraw t) := by
  unfold withdraw
  rw [← offered_eq_of_indistinguishable h, ← rdreq_eq_of_indistinguishable h]
  cases s.offered with
  | some c => exact indistinguishable_mayAppend h c
  | none =>
    cases s.rdreq with
    | true => exact indistinguishable_loseBytes h
    | false => exact h

theorem indistinguishable_resetRegisters : Indistinguishable (resetRegisters s) (resetRegisters t) := by
  obtain ⟨-, -, hsrc, hsnk, hscript, hdraws, -, -⟩ := h
  simp [Indistinguishable, hsrc, hsnk, hscript, hdraws]

/-- A driven port is driven in both states or in neither. -/
theorem sameOutcome_drives {a b : Bool} (hab : a = b) : SameOutcome (drives a s) (drives b t) := by
  subst hab
  cases a with
  | true => exact h
  | false => rfl

theorem sameOutcome_answerRead {f : State → State} (hf : s.phase = .read → Indistinguishable (f s) (f t)) :
    SameOutcome (answerRead f s) (answerRead f t) := by
  have hphase := phase_eq_of_indistinguishable h
  by_cases hp : s.phase = .read
  · rw [answerRead_eq_next.mpr ⟨hp, rfl⟩, answerRead_eq_next.mpr ⟨hphase ▸ hp, rfl⟩]
    exact hf hp
  · rw [answerRead_of_ne hp, answerRead_of_ne (hphase ▸ hp)]
    rfl

theorem sameOutcome_answerWrite {f : Char8 → State → State}
    (hf : ∀ c, s.offered = some c → Indistinguishable (f c s) (f c t)) :
    SameOutcome (answerWrite f s) (answerWrite f t) := by
  have hsame := offered_eq_of_indistinguishable h
  cases ho : s.offered with
  | some c =>
    rw [answerWrite_eq_next.mpr ⟨c, ho, rfl⟩, answerWrite_eq_next.mpr ⟨c, hsame ▸ ho, rfl⟩]
    exact hf c ho
  | none =>
    rw [answerWrite_of_none ho, answerWrite_of_none (hsame ▸ ho)]
    rfl

theorem sameOutcome_execStart : SameOutcome (execStart s) (execStart t) := by
  unfold execStart
  rw [← phase_eq_of_indistinguishable h]
  cases s.phase.acceptsStart with
  | true =>
    obtain ⟨-, -, hsrc, hsnk, hscript, hdraws, -, -⟩ := h
    exact indistinguishable_beginInvocation hsrc hsnk hscript hdraws
  | false => exact h

theorem sameOutcome_exec (i : Instr) : SameOutcome (exec i s) (exec i t) := by
  have hphase := phase_eq_of_indistinguishable h
  have hoffered := offered_eq_of_indistinguishable h
  cases i with
  | start => exact sameOutcome_execStart h
  | rdreq => exact sameOutcome_drives h (rdreq_eq_of_indistinguishable h)
  | enc3 b0 b1 b2 => exact sameOutcome_answerRead h fun hp => indistinguishable_receiveChunk h hp .three b0 b1 b2
  | enc2 b0 b1 => exact sameOutcome_answerRead h fun hp => indistinguishable_receiveChunk h hp .two b0 b1 0
  | enc1 b0 => exact sameOutcome_answerRead h fun hp => indistinguishable_receiveChunk h hp .one b0 0 0
  | endInput =>
    simp only [exec, execEndInput]
    refine sameOutcome_answerRead h fun hp => ?_
    exact indistinguishable_endInput h hp
  | rdfail =>
    simp only [exec, execRdfail]
    refine sameOutcome_answerRead h fun _ => ?_
    exact indistinguishable_raiseFailure (indistinguishable_loseBytes h) _
  | putc c => exact sameOutcome_drives h (by rw [hphase, hoffered])
  | putcr => exact sameOutcome_drives h (by rw [hphase])
  | putlf => exact sameOutcome_drives h (by rw [hphase])
  | wack =>
    simp only [exec, execWack]
    refine sameOutcome_answerWrite h fun c ho => ?_
    have hafter : (sinkAccept c s).offered = some c := ho
    exact indistinguishable_advanceWrite (indistinguishable_sinkAccept h c) hafter
  | wfail =>
    simp only [exec, execWfail]
    refine sameOutcome_answerWrite h fun c _ => ?_
    exact indistinguishable_raiseFailure (indistinguishable_mayAppend h c) _
  | blk3 b0 b1 b2 => exact indistinguishable_blockResult h _
  | blk2 b0 b1 => exact indistinguishable_blockResult h _
  | blk1 b0 => exact indistinguishable_blockResult h _
  | blk0 => rfl

theorem sameOutcome_runWord (w : PortWord) : SameOutcome (runWord w s) (runWord w t) := by
  unfold runWord
  cases decode w with
  | instr i => exact sameOutcome_exec h i
  | reject r =>
    cases r with
    | noCommand => exact h
    | noRequest => exact h
    | neverOffered => rfl

theorem sameOutcome_runLine (l : Line) : SameOutcome (runLine l s) (runLine l t) := by
  cases l with
  | reset => exact indistinguishable_resetRegisters (indistinguishable_withdraw h)
  | word w => exact sameOutcome_runWord h w
  | attachSource bytes => exact indistinguishable_withSrc h bytes
  | attachSink chars => exact indistinguishable_withSnk h chars

end

/-- Settles O59: both states take the same next line, and every line is answered alike (`sameOutcome_runLine`). -/
theorem stepKeepsStatesIndistinguishable : Obligations.StepKeepsStatesIndistinguishable := by
  intro s t h
  have ⟨_, _, _, _, hscript, _⟩ := h
  cases hs : s.script with
  | nil =>
    rw [step, step, fetchLine_nil hs, fetchLine_nil (hscript ▸ hs)]
    exact h
  | cons l rest =>
    rw [step_cons hs, step_cons (hscript ▸ hs)]
    exact sameOutcome_runLine (indistinguishable_withScript h rest) l

/-- Settles O58: START is accepted in both, and clears or leaves unread every register in which they may differ. -/
theorem startForgetsEarlierInvocations : Obligations.StartForgetsEarlierInvocations := by
  intro s t hs ht hsrc hsnk hscript hdraws
  exact ⟨beginInvocation s, beginInvocation t, exec_start_eq_next.mpr (by rw [if_pos hs]),
    exec_start_eq_next.mpr (by rw [if_pos ht]), indistinguishable_beginInvocation hsrc hsnk hscript hdraws⟩

end Sys2Proof.Proofs
end

section
/-! Proofs of the statements about the memory (spec/20_memory.md): what an operation, a reset and a line do to the two
streams, SNK and SRC, and which characters reach SNK. -/

namespace Sys2Proof.Proofs

open Sys2Proof Sys2Proof.Machine

section
variable {s t : State} {i : Instr} {l : Line}

/-- Everything a line can do that is not the host attaching a stream. -/
theorem runLine_next_cases_of_not_attaches (hl : l.attaches = false) (h : runLine l s = .next t) :
    t = resetEvent s ∨ (∃ i, exec i s = .next t) ∨ t = s := by
  rcases runLine_next_cases h with
    ⟨-, ht⟩ | ⟨b, rfl, -⟩ | ⟨b, rfl, -⟩ | ⟨w, i, -, -, hexec⟩ | ⟨w, r, -, -, ht⟩
  · exact .inl ht
  · exact absurd hl (by simp [Line.attaches])
  · exact absurd hl (by simp [Line.attaches])
  · exact .inr (.inl ⟨i, hexec⟩)
  · exact .inr (.inr ht)

/-! ### SNK -/

/-- Where an accepted character leads is a matter of registers: the character is in SNK already (R103). -/
@[simp] theorem advanceWrite_snk (s : State) : (advanceWrite s).snk = s.snk := by
  cases hp : s.phase with
  | emit =>
    by_cases hk : s.k.toNat < 3
    · rw [advanceWrite_emit_within hp hk]
    · rw [advanceWrite_emit_last hp hk]
  | cr => rw [advanceWrite_cr hp]
  | lf =>
    rw [advanceWrite_lf hp]
    split <;> rfl
  | idle | read | done | failed => simp [advanceWrite, hp]

/-- Only a write response can touch SNK (R35). -/
theorem snk_eq_of_not_writeResponse (hw : i.isWriteResponse = false) (h : exec i s = .next t) : t.snk = s.snk := by
  cases transfer_of_exec h with
  | still _ _ _ hsame =>
    obtain ⟨-, -, hsnk⟩ := hsame
    exact hsnk
  | start | chunk | endInput | rdfail => rfl
  | nextChar | groupDone | crDone | lastLine | nextLine | wfail => simp [Instr.isWriteResponse] at hw

/-- The sink takes at most the character on offer in one operation: with WACK surely, with WFAIL perhaps (R35, U3). -/
theorem exec_snk_cases (h : exec i s = .next t) :
    t.snk = s.snk ∨ ∃ c, s.offered = some c ∧ t.snk = s.snk ++ [c] := by
  cases i with
  | wack =>
    obtain ⟨c, ho, rfl⟩ := exec_wack_eq_next.mp h
    exact .inr ⟨c, ho, by simp⟩
  | wfail =>
    obtain ⟨c, ho, rfl⟩ := exec_wfail_eq_next.mp h
    exact (mayAppend_snk_cases c s).imp_right fun hsnk => ⟨c, ho, hsnk⟩
  | _ => exact .inl (snk_eq_of_not_writeResponse rfl h)

/-- A reset withdraws the write outstanding, and the sink may have taken its character (R151, U3). -/
theorem resetEvent_snk_cases (s : State) :
    (resetEvent s).snk = s.snk ∨ ∃ c, s.offered = some c ∧ (resetEvent s).snk = s.snk ++ [c] := by
  rw [resetEvent, resetRegisters_snk]
  rcases withdraw_cases s with ⟨c, ho, h⟩ | ⟨-, h⟩ | ⟨-, -, h⟩
  · rw [h]
    exact (mayAppend_snk_cases c s).imp_right fun hsnk => ⟨c, ho, hsnk⟩
  · exact .inl (by rw [h, loseBytes_snk])
  · exact .inl (by rw [h])

theorem runLine_snk_cases (hl : l.attaches = false) (h : runLine l s = .next t) :
    t.snk = s.snk ∨ ∃ c, s.offered = some c ∧ t.snk = s.snk ++ [c] := by
  rcases runLine_next_cases_of_not_attaches hl h with rfl | ⟨i, hexec⟩ | rfl
  · exact resetEvent_snk_cases s
  · exact exec_snk_cases hexec
  · exact .inl rfl

/-- What the encoder offers is one of the 67 codes: in EMIT, R25 (c) makes OBUF a group of BlockCodec (R56). -/
theorem offered_isOfferedCode {c : Char8} (hs : Invariant s) (ho : s.offered = some c) : isOfferedCode c = true := by
  rcases offered_eq_some_iff.mp ho with ⟨hp, rfl⟩ | ⟨-, rfl⟩ | ⟨-, rfl⟩
  · obtain ⟨-, n, -, hobuf⟩ := hs.emitting hp
    simp [isOfferedCode, hobuf, encodeBlock_get_isGroupCode]
  · decide
  · decide

/-! ### SRC -/

/-- The source gives bytes only to a read response, and those from its front (R33, U4). -/
theorem exec_src_cases (h : exec i s = .next t) : t.src = s.src ∨ s.phase = .read ∧ t.src <:+ s.src := by
  cases transfer_of_exec h with
  | chunk _ _ n b0 b1 b2 hp => exact .inr ⟨hp, List.drop_suffix n.bytes s.src⟩
  | rdfail hp => exact .inr ⟨hp, loseBytes_src_suffix s⟩
  | still _ _ _ hsame =>
    obtain ⟨-, hsrc, -⟩ := hsame
    exact .inl hsrc
  | start | endInput | nextChar | groupDone | crDone | lastLine | nextLine | wfail => exact .inl rfl

/-- A reset withdraws the read outstanding, and the source may have lost bytes to it (R151, U3). -/
theorem resetEvent_src_cases (s : State) :
    (resetEvent s).src = s.src ∨ s.phase = .read ∧ (resetEvent s).src <:+ s.src := by
  rw [resetEvent, resetRegisters_src]
  rcases withdraw_cases s with ⟨c, -, h⟩ | ⟨hp, h⟩ | ⟨-, -, h⟩
  · exact .inl (by rw [h, mayAppend_src])
  · exact .inr ⟨hp, by rw [h]; exact loseBytes_src_suffix s⟩
  · exact .inl (by rw [h])

theorem runLine_src_cases (hl : l.attaches = false) (h : runLine l s = .next t) :
    t.src = s.src ∨ s.phase = .read ∧ t.src <:+ s.src := by
  rcases runLine_next_cases_of_not_attaches hl h with rfl | ⟨i, hexec⟩ | rfl
  · exact resetEvent_src_cases s
  · exact exec_src_cases hexec
  · exact .inl rfl

end

/-- Settles O42: a reset, an operation and a line without effect each add at most the character on offer
(`runLine_snk_cases`). -/
theorem sinkGrowsByTheOfferedCharacter : Obligations.SinkGrowsByTheOfferedCharacter := by
  intro l s t hl h
  exact runLine_snk_cases hl h

/-- Settles O40: SNK grows by the offered character alone, and the invariant makes that one of the 67 codes. -/
theorem sinkHoldsOnlyLegalCodes : Obligations.SinkHoldsOnlyLegalCodes := by
  intro l s t hs hsnk hl h c hc
  rcases runLine_snk_cases hl h with hsame | ⟨d, ho, hgrown⟩
  · exact hsnk c (hsame ▸ hc)
  · rw [hgrown, List.mem_append, List.mem_singleton] at hc
    rcases hc with hold | rfl
    · exact hsnk c hold
    · exact offered_isOfferedCode hs ho

/-- Settles O43: where SRC changes at all a read was requested, and what is left is a suffix (`runLine_src_cases`). -/
theorem sourceIsConsumedFromItsFront : Obligations.SourceIsConsumedFromItsFront := by
  intro l s t hl h
  rcases runLine_src_cases hl h with hsame | ⟨hp, hsuffix⟩
  · exact ⟨hsame ▸ List.suffix_refl _, fun _ => hsame⟩
  · exact ⟨hsuffix, fun hr => absurd hp (rdreq_false_iff.mp hr)⟩

end Sys2Proof.Proofs
end

section
/-! Proofs of the statements about the encoding (spec/30_encoding.md): first the codes of the alphabet, then the
decoder of each port, the placing of a word, the canonical source, and which codes come to be offered. -/

namespace Sys2Proof.Proofs

open Sys2Proof Sys2Proof.Machine

/-! ### The codes of R56 to R58 -/

section
variable {c : Char8}

theorem romRead_toNat_of_le_25 {i : Sextet} (h : i.toNat ≤ 25) : (romRead i).toNat = 0x41 + i.toNat := by
  rw [romRead, if_pos h, BitVec.toNat_ofNat]
  omega

theorem romRead_toNat_of_le_51 {i : Sextet} (hlo : 26 ≤ i.toNat) (hhi : i.toNat ≤ 51) :
    (romRead i).toNat = 0x61 + (i.toNat - 26) := by
  rw [romRead, if_neg (by omega), if_pos hhi, BitVec.toNat_ofNat]
  omega

theorem romRead_toNat_of_le_61 {i : Sextet} (hlo : 52 ≤ i.toNat) (hhi : i.toNat ≤ 61) :
    (romRead i).toNat = 0x30 + (i.toNat - 52) := by
  rw [romRead, if_neg (by omega), if_neg (by omega), if_pos hhi, BitVec.toNat_ofNat]
  omega

theorem romRead_of_eq_62 {i : Sextet} (h : i.toNat = 62) : romRead i = 0x2B := by simp [romRead, h]

theorem romRead_of_eq_63 {i : Sextet} (h : i.toNat = 63) : romRead i = 0x2F := by simp [romRead, h]

/-- The five ranges of R57 as one case split. -/
theorem romRead_toNat_cases (i : Sextet) :
    (i.toNat ≤ 25 ∧ (romRead i).toNat = 0x41 + i.toNat) ∨
    (26 ≤ i.toNat ∧ i.toNat ≤ 51 ∧ (romRead i).toNat = 0x61 + (i.toNat - 26)) ∨
    (52 ≤ i.toNat ∧ i.toNat ≤ 61 ∧ (romRead i).toNat = 0x30 + (i.toNat - 52)) ∨
    (i.toNat = 62 ∧ (romRead i).toNat = 0x2B) ∨ (i.toNat = 63 ∧ (romRead i).toNat = 0x2F) := by
  have hlt := i.isLt
  by_cases h25 : i.toNat ≤ 25
  · exact .inl ⟨h25, romRead_toNat_of_le_25 h25⟩
  by_cases h51 : i.toNat ≤ 51
  · exact .inr (.inl ⟨by omega, h51, romRead_toNat_of_le_51 (by omega) h51⟩)
  by_cases h61 : i.toNat ≤ 61
  · exact .inr (.inr (.inl ⟨by omega, h61, romRead_toNat_of_le_61 (by omega) h61⟩))
  by_cases h62 : i.toNat = 62
  · exact .inr (.inr (.inr (.inl ⟨h62, by rw [romRead_of_eq_62 h62]; rfl⟩)))
  · have h63 : i.toNat = 63 := by omega
    exact .inr (.inr (.inr (.inr ⟨h63, by rw [romRead_of_eq_63 h63]; rfl⟩)))

/-- The code ranges of R57 lie apart, and within a range the code gives the index. -/
theorem romRead_injective : Function.Injective romRead := by
  intro i j h
  have hcode : (romRead i).toNat = (romRead j).toNat := congrArg BitVec.toNat h
  have hi := romRead_toNat_cases i
  have hj := romRead_toNat_cases j
  apply BitVec.eq_of_toNat_eq
  omega

/-- An index given by its number reads the code that the number has in R57. -/
theorem exists_romRead_of_toNat {n : Nat} (hn : n < 64)
    (h : ∀ i : Sextet, i.toNat = n → (romRead i).toNat = c.toNat) : ∃ i : Sextet, romRead i = c :=
  ⟨BitVec.ofNat 6 n, BitVec.eq_of_toNat_eq (h _ (by rw [BitVec.toNat_ofNat, Nat.mod_eq_of_lt hn]))⟩

/-- The ranges that `isAlphabetCode` tests are covered by the ROM (R57). -/
theorem isAlphabetCode_iff : isAlphabetCode c = true ↔ ∃ i : Sextet, romRead i = c := by
  constructor
  · intro h
    simp only [isAlphabetCode, Bool.or_eq_true, Bool.and_eq_true, decide_eq_true_eq, beq_iff_eq] at h
    rcases h with (((hupper | hlower) | hdigit) | rfl) | rfl
    · exact exists_romRead_of_toNat (n := c.toNat - 0x41) (by omega) fun i hi => by
        rw [romRead_toNat_of_le_25 (by omega)]; omega
    · exact exists_romRead_of_toNat (n := c.toNat - 0x61 + 26) (by omega) fun i hi => by
        rw [romRead_toNat_of_le_51 (by omega) (by omega)]; omega
    · exact exists_romRead_of_toNat (n := c.toNat - 0x30 + 52) (by omega) fun i hi => by
        rw [romRead_toNat_of_le_61 (by omega) (by omega)]; omega
    · exact ⟨62, rfl⟩
    · exact ⟨63, rfl⟩
  · rintro ⟨i, rfl⟩
    exact romRead_isAlphabetCode i

/-- A group holds ROM codes and PAD (R56). -/
theorem isGroupCode_iff : isGroupCode c = true ↔ (∃ i : Sextet, romRead i = c) ∨ c = Config.pad := by
  rw [isGroupCode, Bool.or_eq_true, isAlphabetCode_iff, beq_iff_eq]

/-- The codes of R56: the ROM codes, PAD, CR and LF. -/
theorem isOfferedCode_iff : isOfferedCode c = true ↔
    (∃ i : Sextet, romRead i = c) ∨ c = Config.pad ∨ c = Config.cr ∨ c = Config.lf := by
  simp only [isOfferedCode, Bool.or_eq_true, isGroupCode_iff, beq_iff_eq, or_assoc]

theorem ne_cr_of_isGroupCode (h : isGroupCode c = true) : c ≠ Config.cr := by
  rintro rfl
  exact absurd h (by decide)

theorem ne_lf_of_isGroupCode (h : isGroupCode c = true) : c ≠ Config.lf := by
  rintro rfl
  exact absurd h (by decide)

/-- Every code of R56 is 7-bit ASCII. -/
theorem toNat_lt_128_of_isOfferedCode (h : isOfferedCode c = true) : c.toNat < 128 := by
  rcases isOfferedCode_iff.mp h with ⟨i, rfl⟩ | rfl | rfl | rfl
  · have := romRead_toNat_cases i
    omega
  · decide
  · decide
  · decide

theorem bit7_of_isOfferedCode (h : isOfferedCode c = true) : c.getLsbD 7 = false := by
  rw [← BitVec.msb_eq_getLsbD_last (x := c), BitVec.msb_eq_false_iff_two_mul_lt]
  have := toNat_lt_128_of_isOfferedCode h
  omega

end

/-- Settles O6: the formulas of R57 range by range, and the injectivity that follows from them; R58 by the ROM's own
laws. -/
theorem romHoldsTheAlphabet : Obligations.RomHoldsTheAlphabet :=
  ⟨fun i => ⟨romRead_toNat_of_le_25, romRead_toNat_of_le_51, romRead_toNat_of_le_61, romRead_of_eq_62,
    romRead_of_eq_63, romRead_ne_pad i, romRead_ne_cr i, romRead_ne_lf i⟩, fun _ _ h => romRead_injective h⟩

/-! ### The decoder, port by port -/

section
variable {c : OWord} {i : Instr}

/-- ERR = 1 is a failed read, whatever LEN and the lanes hold (R60, R135). -/
theorem decode_packRead_err (len : BitVec 2) (b0 b1 b2 : Byte) :
    decode (.r (packRead 1 len b0 b1 b2)) = .instr .rdfail := by
  simp [decode, decodeReadResponse]

/-- ERR = 0: LEN selects the operation, and the lanes beyond LEN are ignored (R60). -/
theorem decode_packRead_ok (len : BitVec 2) (b0 b1 b2 : Byte) :
    decode (.r (packRead 0 len b0 b1 b2)) =
      .instr (if len = 3 then .enc3 b0 b1 b2 else if len = 2 then .enc2 b0 b1 else if len = 1 then .enc1 b0
        else .endInput) := by
  simp [decode, decodeReadResponse]

/-- NB selects the operation, and the lanes beyond NB are ignored (R52, R60). -/
theorem decode_packBlock (nb : BitVec 2) (b0 b1 b2 : Byte) :
    decode (.b (packBlock nb b0 b1 b2)) =
      .instr (if nb = 3 then .blk3 b0 b1 b2 else if nb = 2 then .blk2 b0 b1 else if nb = 1 then .blk1 b0
        else .blk0) := by
  simp [decode, decodeBlock]

/-- What stands on the O-format is CR, LF or a group's character, and which one its code tells (R56, R60). -/
theorem decode_offer_eq_instr_iff : decode (.o c) = .instr i ↔
    (c = Config.cr ∧ i = .putcr) ∨ (c = Config.lf ∧ i = .putlf) ∨ (isGroupCode c = true ∧ i = .putc c) := by
  constructor
  · intro h
    simp only [decode, decodeOffer] at h
    split_ifs at h with hcr hlf hg
    · exact .inl ⟨hcr, (Decoded.instr.inj h).symm⟩
    · exact .inr (.inl ⟨hlf, (Decoded.instr.inj h).symm⟩)
    · exact .inr (.inr ⟨hg, (Decoded.instr.inj h).symm⟩)
  · rintro (⟨rfl, rfl⟩ | ⟨rfl, rfl⟩ | ⟨hg, rfl⟩)
    · rfl
    · rfl
    · simp [decode, decodeOffer, ne_cr_of_isGroupCode hg, ne_lf_of_isGroupCode hg, hg]

theorem decode_offer_of_isGroupCode (h : isGroupCode c = true) : decode (.o c) = .instr (.putc c) :=
  decode_offer_eq_instr_iff.mpr (.inr (.inr ⟨h, rfl⟩))

/-- A word on the O-format is an operation exactly where it is one of the codes of R56. -/
theorem decode_offer_isSome_iff : (∃ i, decode (.o c) = .instr i) ↔ isOfferedCode c = true := by
  constructor
  · rintro ⟨i, h⟩
    rcases decode_offer_eq_instr_iff.mp h with ⟨rfl, -⟩ | ⟨rfl, -⟩ | ⟨hg, -⟩
    · decide
    · decide
    · simp [isOfferedCode, hg]
  · intro h
    simp only [isOfferedCode, Bool.or_eq_true, beq_iff_eq] at h
    rcases h with (hg | rfl) | rfl
    · exact ⟨_, decode_offer_of_isGroupCode hg⟩
    · exact ⟨.putcr, rfl⟩
    · exact ⟨.putlf, rfl⟩

/-- The fields of R53 make up the R-format word whole. -/
theorem packRead_fields (w : RWord) :
    packRead (w.extractLsb' 26 1) (RWord.len w) (RWord.b0 w) (RWord.b1 w) (RWord.b2 w) = w := by
  apply BitVec.eq_of_getLsbD_eq
  intro i hi
  simp only [packRead, RWord.len, RWord.b0, RWord.b1, RWord.b2, BitVec.getLsbD_append, BitVec.getLsbD_extractLsb']
  grind

theorem decodeReadResponse_isReadResponse (w : RWord) : (decodeReadResponse w).isReadResponse = true := by
  unfold decodeReadResponse
  split_ifs <;> rfl

theorem decodeWriteResponse_isWriteResponse (w : WWord) : (decodeWriteResponse w).isWriteResponse = true := by
  unfold decodeWriteResponse
  split_ifs <;> rfl

end

/-- Settles O1, operation by operation: the fields of the canonical word are read back by the decoder of its port. -/
theorem decodeEncodeRoundTrip : Obligations.DecodeEncodeRoundTrip := by
  intro i hwf
  cases i with
  | enc3 b0 b1 b2 => exact decode_packRead_ok 3 b0 b1 b2
  | enc2 b0 b1 => exact decode_packRead_ok 2 b0 b1 0
  | enc1 b0 => exact decode_packRead_ok 1 b0 0 0
  | endInput => exact decode_packRead_ok 0 0 0 0
  | rdfail => exact decode_packRead_err 0 0 0 0
  | blk3 b0 b1 b2 => exact decode_packBlock 3 b0 b1 b2
  | blk2 b0 b1 => exact decode_packBlock 2 b0 b1 0
  | blk1 b0 => exact decode_packBlock 1 b0 0 0
  | blk0 => exact decode_packBlock 0 0 0 0
  | putc c => exact decode_offer_of_isGroupCode hwf
  | start | rdreq | putcr | putlf | wack | wfail => rfl

/-- Settles O2: the rows of the R- and B-format by their fields, those of the O-format by the codes of R56, and the
1-bit words one by one. -/
theorem operationMapIsDecoded : Obligations.OperationMapIsDecoded := by
  refine ⟨decode_packRead_err, fun b0 b1 b2 => ?_, fun c hc => ?_, rfl, rfl, rfl, rfl, rfl, rfl⟩
  · exact ⟨decode_packRead_ok 3 b0 b1 b2, decode_packRead_ok 2 b0 b1 b2, decode_packRead_ok 1 b0 b1 b2,
      decode_packRead_ok 0 b0 b1 b2, decode_packBlock 3 b0 b1 b2, decode_packBlock 2 b0 b1 b2,
      decode_packBlock 1 b0 b1 b2, decode_packBlock 0 b0 b1 b2⟩
  · exact decode_offer_of_isGroupCode (isGroupCode_iff.mpr hc.symm)

/-- Settles O3: a word is the packing of its fields, and every branch of its decoder is a read response. -/
theorem everyReadWordDecodes : Obligations.EveryReadWordDecodes := by
  intro w
  exact ⟨⟨_, _, _, _, _, (packRead_fields w).symm⟩, _, rfl, decodeReadResponse_isReadResponse w⟩

/-- Settles O4: what decodes is what `isOfferedCode` accepts, which is the set of R56; its size is counted. -/
theorem offeredValuesAreSixtySeven : Obligations.OfferedValuesAreSixtySeven :=
  ⟨fun _ => decode_offer_isSome_iff.trans isOfferedCode_iff, by decide⟩

/-- Settles O5: closed words, decoded by computation. -/
theorem writtenOutWordsDecode : Obligations.WrittenOutWordsDecode := by
  unfold Obligations.WrittenOutWordsDecode
  decide

/-- Settles O35: the invariant makes the offered character one of the codes of R56, and those are 7-bit. -/
theorem offeredCharacterIsALegalCode : Obligations.OfferedCharacterIsALegalCode := by
  intro s c hs ho
  have hcode := offered_isOfferedCode hs ho
  exact ⟨isOfferedCode_iff.mp hcode, bit7_of_isOfferedCode hcode⟩

/-! ### The step on a word -/

/-- Settles O48: a C-format 0 decodes to no operation, and the rejection changes nothing (R55). -/
theorem noCommandIsNoEvent : Obligations.NoCommandIsNoEvent := by
  intro s rest hscript
  rw [step_cons hscript]
  rfl

section
variable {s : State} {i : Instr} {p : PortWord}

/-- In READ every read response has a next state (R116). -/
theorem exists_next_of_readResponse (hi : i.isReadResponse = true) (hp : s.phase = .read) :
    ∃ t, exec i s = .next t := by
  cases i with
  | enc3 b0 b1 b2 => exact ⟨_, exec_enc3_eq_next.mpr ⟨hp, rfl⟩⟩
  | enc2 b0 b1 => exact ⟨_, exec_enc2_eq_next.mpr ⟨hp, rfl⟩⟩
  | enc1 b0 => exact ⟨_, exec_enc1_eq_next.mpr ⟨hp, rfl⟩⟩
  | endInput => exact ⟨_, exec_endInput_eq_next.mpr ⟨hp, rfl⟩⟩
  | rdfail => exact ⟨_, exec_rdfail_eq_next.mpr ⟨hp, rfl⟩⟩
  | _ => simp [Instr.isReadResponse] at hi

/-- Where a character is on offer every write response has a next state (R116). -/
theorem exists_next_of_writeResponse (hi : i.isWriteResponse = true) (ho : s.offered.isSome) :
    ∃ t, exec i s = .next t := by
  obtain ⟨c, ho⟩ := Option.isSome_iff_exists.mp ho
  cases i with
  | wack => exact ⟨_, exec_wack_eq_next.mpr ⟨c, ho, rfl⟩⟩
  | wfail => exact ⟨_, exec_wfail_eq_next.mpr ⟨c, ho, rfl⟩⟩
  | _ => simp [Instr.isWriteResponse] at hi

/-- BlockCodec answers every B-format word but the reserved BLK0, in every state (R70, R77). -/
theorem exists_next_of_block (w : BWord) (hne : decodeBlock w ≠ .blk0) : ∃ t, exec (decodeBlock w) s = .next t := by
  unfold decodeBlock at hne ⊢
  split_ifs at hne ⊢ with h3 h2 h1
  · exact ⟨_, exec_blk3_eq_next.mpr rfl⟩
  · exact ⟨_, exec_blk2_eq_next.mpr rfl⟩
  · exact ⟨_, exec_blk1_eq_next.mpr rfl⟩
  · exact absurd rfl hne

theorem readyFor_write_offers (s : State) (w : WWord) : (s.readyFor (.w w)).offered.isSome = true := by
  rw [State.readyFor]
  split_ifs with ho
  · exact ho
  · rfl

/-- A state made ready for an O-format word drives the port so. -/
theorem exists_next_of_offer {c : OWord} (hd : decode (.o c) = .instr i) :
    ∃ t, exec i (s.readyFor (.o c)) = .next t := by
  rcases decode_offer_eq_instr_iff.mp hd with ⟨rfl, rfl⟩ | ⟨rfl, rfl⟩ | ⟨hg, rfl⟩
  · exact ⟨_, exec_putcr_eq_next.mpr ⟨rfl, rfl⟩⟩
  · exact ⟨_, exec_putlf_eq_next.mpr ⟨rfl, rfl⟩⟩
  · rw [State.readyFor, if_neg (ne_cr_of_isGroupCode hg), if_neg (ne_lf_of_isGroupCode hg)]
    exact ⟨_, exec_putc_eq_next.mpr ⟨⟨rfl, rfl⟩, rfl⟩⟩

/-- In the state made ready for a word, the operation it decodes to completes, BLK0 apart. -/
theorem exists_next_readyFor (hd : decode p = .instr i) (hne : i ≠ .blk0) :
    ∃ t, exec i (s.readyFor p) = .next t := by
  cases p with
  | c w =>
    simp only [decode, decodeCommand] at hd
    split_ifs at hd
    obtain rfl := Decoded.instr.inj hd
    exact ⟨_, exec_start_eq_next.mpr rfl⟩
  | q w =>
    simp only [decode, decodeRequest] at hd
    split_ifs at hd
    obtain rfl := Decoded.instr.inj hd
    exact ⟨_, exec_rdreq_eq_next.mpr ⟨rfl, rfl⟩⟩
  | r w =>
    obtain rfl := Decoded.instr.inj hd
    exact exists_next_of_readResponse (decodeReadResponse_isReadResponse w) rfl
  | w w =>
    obtain rfl := Decoded.instr.inj hd
    exact exists_next_of_writeResponse (decodeWriteResponse_isWriteResponse w) (readyFor_write_offers s w)
  | b w =>
    obtain rfl := Decoded.instr.inj hd
    exact exists_next_of_block w hne
  | o c => exact exists_next_of_offer hd

/-- A table word that is an operation stands for a port word that decodes to it. -/
theorem tableWord_of_decodeTableWord {nbits w : Nat} (h : decodeTableWord nbits w = some i) :
    ∃ p, tableWord nbits w = some p ∧ decode p = .instr i := by
  unfold decodeTableWord at h
  split at h
  · simp at h
  · next p hp =>
    split at h
    · next j hj => exact ⟨p, hp, by rw [hj, Option.some.inj h]⟩
    · simp at h

theorem withFetchWord_of_tableWord {nbits w : Nat} (h : tableWord nbits w = some p) :
    s.withFetchWord nbits w = (s.readyFor p).feedLine (.word p) := by
  rw [State.withFetchWord, h]

end

/-- Settles O50: the placed word is the line the next step runs, on a state that takes it (`exists_next_readyFor`). -/
theorem placedWordRunsNext : Obligations.PlacedWordRunsNext := by
  intro s nbits w i h
  obtain ⟨p, hp, hd⟩ := tableWord_of_decodeTableWord h
  have hstep : step (s.withFetchWord nbits w) = exec i (s.readyFor p) := by
    rw [withFetchWord_of_tableWord hp, step_feedWord hd]
  exact ⟨⟨p, hp, hd, hstep⟩, fun hne => hstep ▸ exists_next_readyFor hd hne⟩

/-! ### The canonical source (R34, R63) -/

theorem length_feed (bytes : List Byte) : (feed bytes).length = bytes.length / 3 + 1 := by
  induction bytes using feed.induct with
  | case1 b0 b1 b2 rest ih =>
    simp only [feed, List.length_cons, ih]
    omega
  | case2 | case3 | case4 => simp [feed]

/-- The first answer is the canonical source's, and only a full chunk leaves anything to ask for. -/
theorem feed_eq_cons (bytes : List Byte) :
    feed bytes = canonicalWord bytes :: (if 3 ≤ bytes.length then feed (bytes.drop 3) else []) := by
  match bytes with
  | b0 :: b1 :: b2 :: rest => simp [feed, canonicalWord]
  | [b0, b1] => rfl
  | [b0] => rfl
  | [] => rfl

/-- Settles O51: the length by induction along FEED's own recursion, the unfolding by how many bytes are left. -/
theorem feedIsTheCanonicalSource : Obligations.FeedIsTheCanonicalSource :=
  fun bytes => ⟨length_feed bytes, feed_eq_cons bytes⟩

/-! ### Every code of R56 comes to be offered -/

section
variable {s t : State} {e : Environment} {c : Char8}

/-- An invocation against any environment keeps R25: each of its transactions is a step. -/
theorem runWith_keeps_invariant {k : Nat} (hs : Invariant s) (h : runWith k e s = .next t) : Invariant t := by
  induction k generalizing e s with
  | zero =>
    cases h
    exact hs
  | succ k ih =>
    rw [runWith] at h
    split at h
    · cases h
      exact hs
    · next w e' _ =>
      have hfed : Invariant (s.feedLine (.word w)) := invariant_of_sameRegisters (sameMachine_refl s).1 hs
      split at h
      · next u hu => exact ih (step_keeps_invariant hfed hu) h
      · cases h
      · cases h

/-- A chunk whose first six bits are the index puts any ROM code at the head of a group (R51, R73). -/
theorem encodeBlock_one_c0_of_index (i : Sextet) (b1 b2 : Byte) :
    (encodeBlock .one (i ++ 0#2) b1 b2).c0 = romRead i := by
  calc (encodeBlock .one (i ++ 0#2) b1 b2).c0
      = romRead (sextet (blockValue (fillChunk .one (i ++ 0#2) b1 b2)) 0) := rfl
    _ = romRead ((i ++ 0#2).extractLsb' 2 6) := by rw [sextet_blockValue_zero, fillChunk_one]
    _ = romRead i := by rw [extract_append_upper i 0#2 2 6 le_rfl, extract_whole]

/-- The canonical source's answer to the first read, where it holds one byte. -/
theorem runWith_feed_one {k : Nat} (hp : s.phase = .read) (b : Byte) (writes : List WWord) :
    runWith (k + 1) { reads := feed [b], writes := writes } s =
      runWith k { reads := [], writes := writes } (receiveChunk .one b 0 0 s) := by
  have hd : decodeReadResponse (packRead 0 1 b 0 0) = .enc1 b := Decoded.instr.inj (decode_packRead_ok 1 b 0 0)
  exact runWith_read hp rfl (by rw [hd, exec_enc1_eq_next.mpr ⟨hp, rfl⟩])

/-- The canonical source's answer to the first read, where it holds nothing. -/
theorem runWith_feed_nil {k : Nat} (hp : s.phase = .read) (writes : List WWord) :
    runWith (k + 1) { reads := feed [], writes := writes } s =
      runWith k { reads := [], writes := writes } { s with eoi := true, phase := .cr } := by
  have hd : decodeReadResponse (packRead 0 0 0 0 0) = .endInput := Decoded.instr.inj (decode_packRead_ok 0 0 0 0)
  exact runWith_read hp rfl (by rw [hd, exec_endInput_eq_next.mpr ⟨hp, rfl⟩])

/-- An accepted character that is not the group's last (R103). -/
theorem runWith_ack_within {k : Nat} {rest : List WWord} (hp : s.phase = .emit) (hk : s.k.toNat < 3)
    (he : e.writes = 0 :: rest) :
    runWith (k + 1) e s =
      runWith k { e with writes := rest } { sinkAccept (s.obuf.get s.k) s with k := s.k + 1 } := by
  rw [runWith_ack (offered_eq_some_iff.mpr (.inl ⟨hp, rfl⟩)) he,
    advanceWrite_emit_within (by simpa using hp) (by simpa using hk)]
  rfl

/-- `c` comes to be offered in a run from `s`, in a state that meets R25. -/
def ComesToBeOffered (s : State) (c : Char8) : Prop :=
  ∃ (e : Environment) (k : Nat) (t0 t : State),
    exec .start s = .next t0 ∧ runWith k e t0 = .next t ∧ Invariant t ∧ t.offered = some c

/-- R25 holds wherever a run after an accepted START leads, so what is left to show is the run and its end. -/
theorem comesToBeOffered_of_runWith {k : Nat} (ha : s.phase.acceptsStart = true)
    (h : runWith k e (beginInvocation s) = .next t) (ho : t.offered = some c) : ComesToBeOffered s c :=
  ⟨e, k, _, t, exec_start_eq_next.mpr (by rw [if_pos ha]), h,
    runWith_keeps_invariant (invariant_beginInvocation s) h, ho⟩

/-- A ROM code is the first character of a one-byte input's group. -/
theorem comesToBeOffered_romRead (ha : s.phase.acceptsStart = true) (i : Sextet) :
    ComesToBeOffered s (romRead i) := by
  apply comesToBeOffered_of_runWith ha (runWith_feed_one (k := 0) rfl (i ++ 0#2) [])
  exact congrArg some (encodeBlock_one_c0_of_index i 0 0)

/-- PAD is the third character of a one-byte input's group. -/
theorem comesToBeOffered_pad (ha : s.phase.acceptsStart = true) : ComesToBeOffered s Config.pad := by
  have hrun := (runWith_feed_one (k := 2) (s := beginInvocation s) rfl 0 [0, 0]).trans
    ((runWith_ack_within (k := 1) rfl (by simp) rfl).trans (runWith_ack_within (k := 0) rfl (by simp) rfl))
  exact comesToBeOffered_of_runWith ha hrun rfl

/-- CR is the first character written for the empty input. -/
theorem comesToBeOffered_cr (ha : s.phase.acceptsStart = true) : ComesToBeOffered s Config.cr :=
  comesToBeOffered_of_runWith ha (runWith_feed_nil (k := 0) rfl []) rfl

/-- LF follows once that CR is accepted. -/
theorem comesToBeOffered_lf (ha : s.phase.acceptsStart = true) : ComesToBeOffered s Config.lf := by
  have hrun := (runWith_feed_nil (k := 1) (s := beginInvocation s) rfl [0]).trans (runWith_ack (k := 0) rfl rfl)
  exact comesToBeOffered_of_runWith ha hrun rfl

end

/-- Settles O60: a one-byte input brings each ROM code and PAD to the O-format, the empty input CR and LF. -/
theorem everyLegalCodeIsOffered : Obligations.EveryLegalCodeIsOffered := by
  rintro s c ha (⟨i, rfl⟩ | rfl | rfl | rfl)
  · exact comesToBeOffered_romRead ha i
  · exact comesToBeOffered_pad ha
  · exact comesToBeOffered_cr ha
  · exact comesToBeOffered_lf ha

end Sys2Proof.Proofs
end

section
/-! Proofs of the statements about the block codec (spec/40_blockcodec.md): first the groups of the three chunk lengths
by the bit slices of their bytes, then the shape of a group, its inverse, and what the operations do with it. -/

namespace Sys2Proof.Proofs

open Sys2Proof Sys2Proof.Machine

/-! ### The group of each chunk length -/

section
variable (b0 b1 b2 : Byte)

theorem encodeBlock_three : encodeBlock .three b0 b1 b2 =
    { c0 := romRead (b0.extractLsb' 2 6)
      c1 := romRead (b0.extractLsb' 0 2 ++ b1.extractLsb' 4 4)
      c2 := romRead (b1.extractLsb' 0 4 ++ b2.extractLsb' 6 2)
      c3 := romRead (b2.extractLsb' 0 6) } := by
  simp [encodeBlock, groupChar, sextet_blockValue_zero, sextet_blockValue_one, sextet_blockValue_two,
    sextet_blockValue_three]

/-- The third byte is filled with zeros, so the low bits of the third sextet are zero (R75). -/
theorem encodeBlock_two : encodeBlock .two b0 b1 b2 =
    { c0 := romRead (b0.extractLsb' 2 6)
      c1 := romRead (b0.extractLsb' 0 2 ++ b1.extractLsb' 4 4)
      c2 := romRead (b1.extractLsb' 0 4 ++ 0#2)
      c3 := Config.pad } := by
  simp [encodeBlock, groupChar, sextet_blockValue_zero, sextet_blockValue_one, sextet_blockValue_two]

/-- The second byte is filled with zeros, so the low bits of the second sextet are zero (R76). -/
theorem encodeBlock_one : encodeBlock .one b0 b1 b2 =
    { c0 := romRead (b0.extractLsb' 2 6)
      c1 := romRead (b0.extractLsb' 0 2 ++ 0#4)
      c2 := Config.pad
      c3 := Config.pad } := by
  simp [encodeBlock, groupChar, sextet_blockValue_zero, sextet_blockValue_one]

end

/-- Settles O7: NB = 3 selects BLK3, and the sextets of a full block value are the slices of R74. -/
theorem blockOfThreeBytes : Obligations.BlockOfThreeBytes :=
  fun b0 b1 b2 => ⟨decode_packBlock 3 b0 b1 b2, encodeBlock_three b0 b1 b2⟩

/-- Settles O8: NB = 2 selects BLK2, and neither the decoder nor the group depends on the B2 lane. -/
theorem blockOfTwoBytes : Obligations.BlockOfTwoBytes :=
  fun b0 b1 b2 => ⟨decode_packBlock 2 b0 b1 b2, encodeBlock_two b0 b1 b2⟩

/-- Settles O9: NB = 1 selects BLK1, and neither the decoder nor the group depends on the B1 and B2 lanes. -/
theorem blockOfOneByte : Obligations.BlockOfOneByte :=
  fun b0 b1 b2 => ⟨decode_packBlock 1 b0 b1 b2, encodeBlock_one b0 b1 b2⟩

/-- Settles O14: the characters in question are the same ROM look-ups; a zero byte beyond the shorter chunk gives the
zero bits of its last sextet. -/
theorem shorterChunksShareTheirPrefix : Obligations.ShorterChunksShareTheirPrefix := by
  intro b0 b1 b2 d1 d2
  refine ⟨?_, ?_, ?_, ?_, ?_⟩
  · rw [encodeBlock_one, encodeBlock_three]
  · rw [encodeBlock_two, encodeBlock_three]
  · rw [encodeBlock_two, encodeBlock_three]
  · rw [encodeBlock_two, encodeBlock_three]
    rfl
  · rw [encodeBlock_one, encodeBlock_three]
    rfl

/-! ### The shape of a group (R78) -/

section
variable (n : ChunkLen) (b0 b1 b2 : Byte)

theorem bytes_le_three : n.bytes ≤ 3 := by cases n <;> decide

theorem bytes_injective : Function.Injective ChunkLen.bytes := by
  intro n m h
  cases n <;> cases m <;> simp at h ⊢

/-- The ROM look-ups of a group, one more than the chunk has bytes (R72, R73). -/
def dataCharsOf (n : ChunkLen) (b0 b1 b2 : Byte) : List Char8 :=
  (List.range (n.bytes + 1)).map fun j => romRead (sextet (blockValue (fillChunk n b0 b1 b2)) j)

theorem length_dataCharsOf : (dataCharsOf n b0 b1 b2).length = n.bytes + 1 := by simp [dataCharsOf]

/-- A group is its ROM look-ups followed by pads: R78 b, from which the rest of R78 follows. The counts are those of the
table of R72. -/
theorem chars_encodeBlock :
    (encodeBlock n b0 b1 b2).chars = dataCharsOf n b0 b1 b2 ++ List.replicate (3 - n.bytes) Config.pad := by
  cases n <;> rfl

variable {n b0 b1 b2} {c : Char8}

theorem exists_romRead_of_mem_dataCharsOf (h : c ∈ dataCharsOf n b0 b1 b2) : ∃ i : Sextet, c = romRead i := by
  obtain ⟨j, -, rfl⟩ := List.mem_map.mp h
  exact ⟨_, rfl⟩

theorem ne_pad_of_mem_dataCharsOf (h : c ∈ dataCharsOf n b0 b1 b2) : c ≠ Config.pad := by
  obtain ⟨i, rfl⟩ := exists_romRead_of_mem_dataCharsOf h
  exact romRead_ne_pad i

/-- A character of a group is PAD or a ROM code (R78 c). -/
theorem mem_chars_cases (h : c ∈ (encodeBlock n b0 b1 b2).chars) : c = Config.pad ∨ ∃ i : Sextet, c = romRead i := by
  rw [chars_encodeBlock, List.mem_append] at h
  rcases h with hdata | hpad
  · exact .inr (exists_romRead_of_mem_dataCharsOf hdata)
  · exact .inl (List.eq_of_mem_replicate hpad)

theorem isGroupCode_of_mem_chars (h : c ∈ (encodeBlock n b0 b1 b2).chars) : isGroupCode c = true :=
  isGroupCode_iff.mpr ((mem_chars_cases h).symm.imp_left fun ⟨i, hi⟩ => ⟨i, hi.symm⟩)

variable (n b0 b1 b2)

/-- Every chunk has two data characters at least. -/
theorem c0_c1_mem_dataCharsOf :
    (encodeBlock n b0 b1 b2).c0 ∈ dataCharsOf n b0 b1 b2 ∧ (encodeBlock n b0 b1 b2).c1 ∈ dataCharsOf n b0 b1 b2 := by
  cases n <;> exact ⟨.head _, .tail _ (.head _)⟩

/-- The pads are counted by the bytes that the chunk lacks (R79). -/
theorem countP_pad_chars : (encodeBlock n b0 b1 b2).chars.countP (· == Config.pad) = 3 - n.bytes := by
  have hdata : (dataCharsOf n b0 b1 b2).countP (· == Config.pad) = 0 :=
    List.countP_eq_zero.mpr fun c hc => by simpa using ne_pad_of_mem_dataCharsOf hc
  simp [chars_encodeBlock, hdata, List.countP_replicate]

end

/-- Settles O12: the group is data characters followed by pads (`chars_encodeBlock`), which the cut at n + 1 separates. -/
theorem groupShape : Obligations.GroupShape := by
  intro n b0 b1 b2
  obtain ⟨h0, h1⟩ := c0_c1_mem_dataCharsOf n b0 b1 b2
  refine ⟨rfl, ?_, ?_, fun c hc => ?_, ne_pad_of_mem_dataCharsOf h0, ne_pad_of_mem_dataCharsOf h1⟩
  · rw [chars_encodeBlock, List.take_left' (length_dataCharsOf n b0 b1 b2)]
    exact fun c hc => exists_romRead_of_mem_dataCharsOf hc
  · rw [chars_encodeBlock, List.drop_left' (length_dataCharsOf n b0 b1 b2)]
    exact fun c hc => List.eq_of_mem_replicate hc
  · have hcode := isGroupCode_of_mem_chars hc
    exact ⟨ne_cr_of_isGroupCode hcode, ne_lf_of_isGroupCode hcode, mem_chars_cases hc⟩

/-! ### The inverse of the block transform (R79) -/

/-- The ROM is injective, so the index found is the one that was read. -/
theorem romIndex_romRead (i : Sextet) : romIndex (romRead i) = some i := by
  have hmem : i ∈ romAddresses := List.mem_map.mpr ⟨i.toNat, List.mem_range.mpr i.isLt, by simp⟩
  cases h : romIndex (romRead i) with
  | none => exact absurd (List.find?_eq_none.mp h i hmem) (by simp)
  | some j =>
    have hsame : romRead j = romRead i := beq_iff_eq.mp (List.find?_some (p := fun j => romRead j == romRead i) h)
    rw [romRead_injective hsame]

theorem romIndex_pad : romIndex Config.pad = none :=
  List.find?_eq_none.mpr fun i _ => by simpa using romRead_ne_pad i

/-- The three bytes out of the sextets that R51 makes of them, whatever the bits beside theirs. -/
theorem inverseByte0_slices (b : Byte) (x : BitVec 4) :
    inverseByte0 (b.extractLsb' 2 6) (b.extractLsb' 0 2 ++ x) = b := by
  rw [inverseByte0, BitVec.extractLsb'_append_eq_left]
  exact BitVec.extractLsb'_append_extractLsb'

theorem inverseByte1_slices (b : Byte) (x y : BitVec 2) :
    inverseByte1 (x ++ b.extractLsb' 4 4) (b.extractLsb' 0 4 ++ y) = b := by
  rw [inverseByte1, BitVec.extractLsb'_append_eq_right, BitVec.extractLsb'_append_eq_left]
  exact BitVec.extractLsb'_append_extractLsb'

theorem inverseByte2_slices (b : Byte) (x : BitVec 4) :
    inverseByte2 (x ++ b.extractLsb' 6 2) (b.extractLsb' 0 6) = b := by
  rw [inverseByte2, BitVec.extractLsb'_append_eq_right]
  exact BitVec.extractLsb'_append_extractLsb'

/-- The formulas of R79, one chunk length at a time; the pad bits are the zeros that fill the last sextet. -/
theorem inverseBlock_encodeBlock (n : ChunkLen) (b0 b1 b2 : Byte) :
    inverseBlock (encodeBlock n b0 b1 b2) = some ([b0, b1, b2].take n.bytes) := by
  cases n with
  | one =>
    have hpad : (b0.extractLsb' 0 2 ++ 0#4).extractLsb' 0 4 = 0#4 := BitVec.extractLsb'_append_eq_right
    simp [encodeBlock_one, inverseBlock, romIndex_romRead, romIndex_pad, hpad, inverseByte0_slices]
  | two =>
    have hpad : (b1.extractLsb' 0 4 ++ 0#2).extractLsb' 0 2 = 0#2 := BitVec.extractLsb'_append_eq_right
    simp [encodeBlock_two, inverseBlock, romIndex_romRead, romIndex_pad, hpad, inverseByte0_slices,
      inverseByte1_slices]
  | three =>
    simp [encodeBlock_three, inverseBlock, romIndex_romRead, inverseByte0_slices, inverseByte1_slices,
      inverseByte2_slices]

/-- Settles O13: the inverse gives back the chunk (`inverseBlock_encodeBlock`), so equal groups have equal chunks, and
their length is that of the chunk given back; the pads are counted on the shape of R78. -/
theorem blockTransformIsInvertible : Obligations.BlockTransformIsInvertible := by
  refine ⟨inverseBlock_encodeBlock, fun n m b0 b1 b2 c0 c1 c2 h => ?_, fun n b0 b1 b2 => ?_⟩
  · have hchunk : [b0, b1, b2].take n.bytes = [c0, c1, c2].take m.bytes := by
      have hinv := congrArg inverseBlock h
      rw [inverseBlock_encodeBlock, inverseBlock_encodeBlock] at hinv
      exact Option.some.inj hinv
    have hlength := congrArg List.length hchunk
    rw [List.length_take_of_le (bytes_le_three n), List.length_take_of_le (bytes_le_three m)] at hlength
    exact ⟨bytes_injective hlength, hchunk⟩
  · have hcount := countP_pad_chars n b0 b1 b2
    have hle := bytes_le_three n
    simp only [Config.pad] at hcount
    omega

/-! ### What the operations do with a group -/

section
variable {s t : State} {i : Instr} {g : Group}

/-- BlockCodec's answer is the packed group, and no register and no stream is written (R70). -/
theorem completes_of_exec_eq_blockResult (h : exec i s = .next (blockResult g s)) :
    ∃ t, exec i s = .next t ∧ SameMachine t s ∧ t.gout = some (g.c0 ++ g.c1 ++ g.c2 ++ g.c3) :=
  ⟨blockResult g s, h, sameMachine_blockResult g s, rfl⟩

/-- BLK2 returns the group of its two bytes, whatever third byte is named with them (R75). -/
theorem exec_blk2_eq_any_lane (s : State) (b0 b1 b2 : Byte) :
    exec (.blk2 b0 b1) s = .next (blockResult (encodeBlock .two b0 b1 b2) s) := by
  rw [exec_blk2_eq_next, encodeBlock_two, encodeBlock_two]

/-- BLK1 returns the group of its byte, whatever other bytes are named with it (R76). -/
theorem exec_blk1_eq_any_lane (s : State) (b0 b1 b2 : Byte) :
    exec (.blk1 b0) s = .next (blockResult (encodeBlock .one b0 b1 b2) s) := by
  rw [exec_blk1_eq_next, encodeBlock_one, encodeBlock_one]

/-- What an operation can do to the model's own fields script and gout: nothing, and then it does not enter EMIT; or
BlockCodec returns a group on the B-format; or a chunk is received (R70, R95 to R97). -/
theorem exec_blockCodec_cases (h : exec i s = .next t) :
    (t.script = s.script ∧ t.gout = s.gout ∧ (t.phase = .emit → s.phase = .emit)) ∨
    (i.format = .b ∧ ∃ g, t = blockResult g s) ∨
    (s.phase = .read ∧ ∃ n b0 b1 b2, t = receiveChunk n b0 b1 b2 s) := by
  cases i with
  | start =>
    obtain rfl := exec_start_eq_next.mp h
    split
    · exact .inl ⟨rfl, rfl, nofun⟩
    · exact .inl ⟨rfl, rfl, id⟩
  | rdreq =>
    obtain ⟨-, rfl⟩ := exec_rdreq_eq_next.mp h
    exact .inl ⟨rfl, rfl, id⟩
  | enc3 b0 b1 b2 =>
    obtain ⟨hp, rfl⟩ := exec_enc3_eq_next.mp h
    exact .inr (.inr ⟨hp, .three, b0, b1, b2, rfl⟩)
  | enc2 b0 b1 =>
    obtain ⟨hp, rfl⟩ := exec_enc2_eq_next.mp h
    exact .inr (.inr ⟨hp, .two, b0, b1, 0, rfl⟩)
  | enc1 b0 =>
    obtain ⟨hp, rfl⟩ := exec_enc1_eq_next.mp h
    exact .inr (.inr ⟨hp, .one, b0, 0, 0, rfl⟩)
  | endInput =>
    obtain ⟨-, rfl⟩ := exec_endInput_eq_next.mp h
    exact .inl ⟨rfl, rfl, nofun⟩
  | rdfail =>
    obtain ⟨-, rfl⟩ := exec_rdfail_eq_next.mp h
    exact .inl ⟨rfl, rfl, nofun⟩
  | putc c =>
    obtain ⟨-, rfl⟩ := exec_putc_eq_next.mp h
    exact .inl ⟨rfl, rfl, id⟩
  | putcr =>
    obtain ⟨-, rfl⟩ := exec_putcr_eq_next.mp h
    exact .inl ⟨rfl, rfl, id⟩
  | putlf =>
    obtain ⟨-, rfl⟩ := exec_putlf_eq_next.mp h
    exact .inl ⟨rfl, rfl, id⟩
  | wack =>
    rcases exec_wack_cases h with ⟨hp, -, rfl⟩ | ⟨hp, -, rfl⟩ | ⟨-, rfl⟩ | ⟨-, -, rfl⟩ | ⟨-, -, rfl⟩
    · exact .inl ⟨rfl, rfl, fun _ => hp⟩
    · exact .inl ⟨rfl, rfl, fun _ => hp⟩
    · exact .inl ⟨rfl, rfl, nofun⟩
    · exact .inl ⟨rfl, rfl, nofun⟩
    · exact .inl ⟨rfl, rfl, nofun⟩
  | wfail =>
    obtain ⟨c, -, rfl⟩ := exec_wfail_eq_next.mp h
    exact .inl ⟨rfl, rfl, nofun⟩
  | blk3 b0 b1 b2 => exact .inr (.inl ⟨rfl, _, exec_blk3_eq_next.mp h⟩)
  | blk2 b0 b1 => exact .inr (.inl ⟨rfl, _, exec_blk2_eq_next.mp h⟩)
  | blk1 b0 => exact .inr (.inl ⟨rfl, _, exec_blk1_eq_next.mp h⟩)
  | blk0 => exact absurd h exec_blk0_ne_next

end

/-- Settles O44, case by case of what an operation does to script and gout (`exec_blockCodec_cases`). -/
theorem onlyChunksInvokeBlockCodec : Obligations.OnlyChunksInvokeBlockCodec := by
  intro i s t h
  rcases exec_blockCodec_cases h with ⟨hscript, hgout, hemit⟩ | ⟨hb, g, rfl⟩ | ⟨hp, n, b0, b1, b2, rfl⟩
  · exact ⟨hscript, fun _ _ => hgout, fun hr he => absurd (hr.symm.trans (hemit he)) nofun⟩
  · exact ⟨rfl, fun hne => absurd hb hne, fun hr he => absurd (hr.symm.trans he) nofun⟩
  · exact ⟨rfl, fun _ hne => by simp [hp] at hne, fun _ _ => rfl⟩

/-- Settles O10: each operation returns the group of `encode_block` and no more (`completes_of_exec_eq_blockResult`). -/
theorem blockOperationsComplete : Obligations.BlockOperationsComplete :=
  fun s b0 b1 b2 => ⟨completes_of_exec_eq_blockResult (exec_blk3_eq_next.mpr rfl),
    completes_of_exec_eq_blockResult (exec_blk2_eq_any_lane s b0 b1 b2),
    completes_of_exec_eq_blockResult (exec_blk1_eq_any_lane s b0 b1 b2)⟩

/-- Settles O11: NB = 0 selects BLK0 whatever the lanes hold, and BLK0's only outcome is the refusal of R77. -/
theorem blockOfNoByteIsRefused : Obligations.BlockOfNoByteIsRefused :=
  fun _ b0 b1 b2 => ⟨decode_packBlock 0 b0 b1 b2, rfl⟩

end Sys2Proof.Proofs
end

section
/-! Proofs of the statements about the stream encoder (spec/41_stream_encoder.md): first its operations one by one and
the table of R116, then the sink's contents at a line's end, the runs of single groups, and last the two statements
about whole invocations, against the reference algorithm of R91 and against the output grammar of R113. -/

namespace Sys2Proof.Proofs

open Sys2Proof Sys2Proof.Machine

/-! ### The control and the read port (R93 to R99) -/

theorem exec_start_of_acceptsStart {s : State} (ha : s.phase.acceptsStart = true) :
    exec .start s = .next (beginInvocation s) :=
  exec_start_eq_next.mpr (by rw [if_pos ha])

/-- Settles O15: START's meaning on either side of `acceptsStart`. -/
theorem startBeginsAnInvocation : Obligations.StartBeginsAnInvocation := by
  refine ⟨rfl, fun s => ⟨fun hp => ?_, fun hp => ?_⟩⟩
  · have ha : s.phase.acceptsStart = true := by rcases hp with hp | hp | hp <;> rw [hp] <;> rfl
    exact ⟨_, exec_start_of_acceptsStart ha, sameMachine_refl _⟩
  · have ha : s.phase.acceptsStart = false := by rcases hp with hp | hp | hp | hp <;> rw [hp] <;> rfl
    exact exec_start_eq_next.mpr (by rw [ha, if_neg Bool.false_ne_true])

/-- Settles O16: the request is the test of PHASE, and a driven port changes nothing. -/
theorem readIsRequestedExactlyInRead : Obligations.ReadIsRequestedExactlyInRead :=
  ⟨rfl, fun _ => ⟨rdreq_iff, fun hp => exec_rdreq_eq_next.mpr ⟨hp, rfl⟩, fun _ h => (exec_rdreq_eq_next.mp h).1⟩⟩

/-- Settles O17: LEN = 3 selects ENC3, which receives the chunk in READ and nowhere else. -/
theorem fullChunkIsLoaded : Obligations.FullChunkIsLoaded := by
  intro b0 b1 b2
  refine ⟨decode_packRead_ok 3 b0 b1 b2, fun s => ⟨fun hp => ?_, fun t h => (exec_enc3_eq_next.mp h).1⟩⟩
  exact ⟨_, exec_enc3_eq_next.mpr ⟨hp, rfl⟩, rfl, (sameMachine_refl _).1, fun rest hsrc => by simp [hsrc]⟩

/-- Settles O18: LEN = 2 selects ENC2, which receives the chunk in READ and nowhere else. -/
theorem twoByteChunkIsLoaded : Obligations.TwoByteChunkIsLoaded := by
  intro b0 b1 b2
  refine ⟨decode_packRead_ok 2 b0 b1 b2, fun s => ⟨fun hp => ?_, fun t h => (exec_enc2_eq_next.mp h).1⟩⟩
  exact ⟨_, exec_enc2_eq_next.mpr ⟨hp, rfl⟩, rfl, (sameMachine_refl _).1, fun rest hsrc => by simp [hsrc]⟩

/-- Settles O19: LEN = 1 selects ENC1, which receives the chunk in READ and nowhere else. -/
theorem oneByteChunkIsLoaded : Obligations.OneByteChunkIsLoaded := by
  intro b0 b1 b2
  refine ⟨decode_packRead_ok 1 b0 b1 b2, fun s => ⟨fun hp => ?_, fun t h => (exec_enc1_eq_next.mp h).1⟩⟩
  exact ⟨_, exec_enc1_eq_next.mpr ⟨hp, rfl⟩, rfl, (sameMachine_refl _).1, fun rest hsrc => by simp [hsrc]⟩

/-- Settles O20: LEN = 0 selects END, which writes EOI and PHASE in READ and has no step elsewhere. -/
theorem endOfInputClosesTheLine : Obligations.EndOfInputClosesTheLine := by
  intro b0 b1 b2
  refine ⟨decode_packRead_ok 0 b0 b1 b2, fun s => ⟨fun hp => ?_, fun t h => (exec_endInput_eq_next.mp h).1⟩⟩
  exact ⟨_, exec_endInput_eq_next.mpr ⟨hp, rfl⟩, sameMachine_refl _, rfl⟩

/-- Settles O21: ERR = 1 selects RDFAIL, which enters the failure in READ; the source keeps a suffix of SRC. -/
theorem readFailureIsTaken : Obligations.ReadFailureIsTaken := by
  intro len b0 b1 b2
  refine ⟨decode_packRead_err len b0 b1 b2, fun s => ⟨fun hp => ?_, fun t h => (exec_rdfail_eq_next.mp h).1⟩⟩
  exact ⟨_, exec_rdfail_eq_next.mpr ⟨hp, rfl⟩, (sameMachine_refl _).1, rfl, rfl, loseBytes_src_suffix s⟩

/-! ### The write port (R100 to R104) -/

section
variable {s t : State} {c : Char8}

/-- A character is on offer exactly in the three PHASEs that write (R100 to R102). -/
theorem exists_offered_iff : (∃ c, s.offered = some c) ↔ s.phase = .emit ∨ s.phase = .cr ∨ s.phase = .lf := by
  simp only [offered_eq_some_iff]
  cases s.phase <;> simp

/-- OBUF[K] by its place among the four characters of the group. -/
theorem chars_getElem?_eq_some_iff : s.obuf.chars[s.k.toNat]? = some c ↔ c = s.obuf.get s.k := by
  rw [get_eq_chars, Option.some.injEq, eq_comm]

theorem offered_of_emit (hp : s.phase = .emit) : s.offered = some (s.obuf.get s.k) :=
  offered_eq_some_iff.mpr (.inl ⟨hp, rfl⟩)

theorem offered_of_cr (hp : s.phase = .cr) : s.offered = some Config.cr :=
  offered_eq_some_iff.mpr (.inr (.inl ⟨hp, rfl⟩))

theorem offered_of_lf (hp : s.phase = .lf) : s.offered = some Config.lf :=
  offered_eq_some_iff.mpr (.inr (.inr ⟨hp, rfl⟩))

/-- A write response has a next state only in the three PHASEs that write. -/
theorem writing_of_writeResponse {i : Instr} (hi : i.isWriteResponse = true) (h : exec i s = .next t) :
    s.phase = .emit ∨ s.phase = .cr ∨ s.phase = .lf := by
  apply exists_offered_iff.mp
  cases i with
  | wack => exact (exec_wack_eq_next.mp h).imp fun _ => And.left
  | wfail => exact (exec_wfail_eq_next.mp h).imp fun _ => And.left
  | _ => simp [Instr.isWriteResponse] at hi

end

/-- Settles O22: the offered character is the one at place K of the group, and a driven port changes nothing. -/
theorem groupCharacterIsOffered : Obligations.GroupCharacterIsOffered := by
  intro s c
  refine ⟨fun hp hc => ?_, fun t h => ?_⟩
  · obtain rfl := chars_getElem?_eq_some_iff.mp hc
    exact ⟨exec_putc_eq_next.mpr ⟨⟨hp, rfl⟩, rfl⟩, offered_of_emit hp⟩
  · obtain ⟨⟨hp, hc⟩, -⟩ := exec_putc_eq_next.mp h
    exact ⟨hp, chars_getElem?_eq_some_iff.mpr hc⟩

/-- Settles O23: PUTCR's meaning, and the character on offer in CR. -/
theorem carriageReturnIsOffered : Obligations.CarriageReturnIsOffered :=
  ⟨rfl, fun _ => ⟨fun hp => ⟨exec_putcr_eq_next.mpr ⟨hp, rfl⟩, offered_of_cr hp⟩,
    fun _ h => (exec_putcr_eq_next.mp h).1⟩⟩

/-- Settles O24: PUTLF's meaning, and the character on offer in LF. -/
theorem lineFeedIsOffered : Obligations.LineFeedIsOffered :=
  ⟨rfl, fun _ => ⟨fun hp => ⟨exec_putlf_eq_next.mpr ⟨hp, rfl⟩, offered_of_lf hp⟩,
    fun _ h => (exec_putlf_eq_next.mp h).1⟩⟩

/-- Settles O26: WFAIL enters the failure on whatever character is on offer, which may be in the sink. -/
theorem writeFailureIsTaken : Obligations.WriteFailureIsTaken := by
  refine ⟨rfl, fun s => ⟨fun c ho => ?_, exists_offered_iff, fun t h => writing_of_writeResponse rfl h⟩⟩
  exact ⟨_, exec_wfail_eq_next.mpr ⟨c, ho, rfl⟩, (sameMachine_refl _).1, rfl, rfl, mayAppend_snk_cases c s⟩

/-- Settles O25, branch by branch of R103; the test of the second is `lineGoesOn`. -/
theorem acceptedCharacterAdvances : Obligations.AcceptedCharacterAdvances := by
  refine ⟨rfl, fun s => ⟨fun c hp hk hc => ?_, fun hp hk => ?_, fun hp => ?_, fun hp he => ?_, fun hp he => ?_,
    fun t h => writing_of_writeResponse rfl h⟩⟩
  · obtain rfl := chars_getElem?_eq_some_iff.mp hc
    refine ⟨_, exec_wack_eq_next.mpr ⟨_, offered_of_emit hp, rfl⟩, ?_⟩
    rw [advanceWrite_emit_within (by simpa using hp) (by simpa using hk)]
    exact sameMachine_refl _
  · have ho : s.offered = some s.obuf.c3 := by rw [offered_of_emit hp, hk]; rfl
    refine ⟨_, exec_wack_eq_next.mpr ⟨_, ho, rfl⟩, ?_⟩
    rw [advanceWrite_emit_last (by simpa using hp) (by simp [hk])]
    simp only [lineGoesOn_iff]
    exact sameMachine_refl _
  · refine ⟨_, exec_wack_eq_next.mpr ⟨_, offered_of_cr hp, rfl⟩, ?_⟩
    rw [advanceWrite_cr (by simpa using hp)]
    exact sameMachine_refl _
  · refine ⟨_, exec_wack_eq_next.mpr ⟨_, offered_of_lf hp, rfl⟩, ?_⟩
    rw [advanceWrite_lf (by simpa using hp), if_pos (by simpa using he)]
    exact sameMachine_refl _
  · refine ⟨_, exec_wack_eq_next.mpr ⟨_, offered_of_lf hp, rfl⟩, ?_⟩
    rw [advanceWrite_lf (by simpa using hp), if_neg (by simp [he])]
    exact sameMachine_refl _

/-! ### Control transfer (R116) -/

section
variable {s t : State} {i : Instr}

/-- A read response is no event outside READ (R116). -/
theorem unrequested_of_readResponse (hi : i.isReadResponse = true) (hp : s.phase ≠ .read) :
    exec i s = .fault .unrequested := by
  cases i with
  | enc3 | enc2 | enc1 | endInput | rdfail =>
    simp only [exec, execEnc3, execEnc2, execEnc1, execEndInput, execRdfail, answerRead_of_ne hp]
  | _ => simp [Instr.isReadResponse] at hi

/-- A write response is no event where nothing is on offer (R116). -/
theorem unrequested_of_writeResponse (hi : i.isWriteResponse = true) (ho : s.offered = none) :
    exec i s = .fault .unrequested := by
  cases i with
  | wack | wfail => simp only [exec, execWack, execWfail, answerWrite_of_none ho]
  | _ => simp [Instr.isWriteResponse] at hi

end

/-- Settles O28: a response runs where it is asked for and faults elsewhere, for reads by PHASE = READ and for writes
by whether a character is on offer. -/
theorem answersRunExactlyWhereAsked : Obligations.AnswersRunExactlyWhereAsked := by
  intro i s
  refine ⟨fun hi => ?_, fun hi => ?_⟩
  · split_ifs with hp
    · exact exists_next_of_readResponse hi hp
    · exact unrequested_of_readResponse hi hp
  · split_ifs with hp
    · exact exists_next_of_writeResponse hi (Option.isSome_iff_exists.mpr (exists_offered_iff.mpr hp))
    · rw [← exists_offered_iff, not_exists] at hp
      exact unrequested_of_writeResponse hi (Option.eq_none_iff_forall_ne_some.mpr hp)

/-- Settles O45: R25 (b) rules READ out once EOI is set, and outside READ no read response is an event. -/
theorem noReadAfterEndOfInput : Obligations.NoReadAfterEndOfInput := by
  intro s hs he
  have hp : s.phase ≠ .read := fun hp => by simp [(hs.reading hp).2] at he
  exact ⟨rdreq_false_iff.mpr hp, fun i hi t h => by simp [unrequested_of_readResponse hi hp] at h⟩

/-- Settles O27, operation by operation: the state each leads to is that of its row, and the other rows are of other
operations. -/
theorem transfersAreTheTable : Obligations.TransfersAreTheTable := by
  intro i s t h
  cases i with
  | start =>
    obtain rfl := exec_start_eq_next.mp h
    cases hp : s.phase <;> simp [Phase.acceptsStart, State.busy, hp, SameRegisters]
  | rdreq =>
    obtain ⟨-, rfl⟩ := exec_rdreq_eq_next.mp h
    simp [Instr.format, sameMachine_refl]
  | enc3 b0 b1 b2 =>
    obtain ⟨hp, rfl⟩ := exec_enc3_eq_next.mp h
    simp [hp, ChunkLen.bits, eoiAfterRead_eq]
  | enc2 b0 b1 =>
    obtain ⟨hp, rfl⟩ := exec_enc2_eq_next.mp h
    simp [hp, ChunkLen.bits, eoiAfterRead_eq]
  | enc1 b0 =>
    obtain ⟨hp, rfl⟩ := exec_enc1_eq_next.mp h
    simp [hp, ChunkLen.bits, eoiAfterRead_eq]
  | endInput =>
    obtain ⟨hp, rfl⟩ := exec_endInput_eq_next.mp h
    simp [hp, SameRegisters]
  | rdfail =>
    obtain ⟨hp, rfl⟩ := exec_rdfail_eq_next.mp h
    simp [hp, SameRegisters]
  | putc c =>
    obtain ⟨-, rfl⟩ := exec_putc_eq_next.mp h
    simp [Instr.format, sameMachine_refl]
  | putcr =>
    obtain ⟨-, rfl⟩ := exec_putcr_eq_next.mp h
    simp [Instr.format, sameMachine_refl]
  | putlf =>
    obtain ⟨-, rfl⟩ := exec_putlf_eq_next.mp h
    simp [Instr.format, sameMachine_refl]
  | wack =>
    rcases exec_wack_cases h with
      ⟨hp, hk, rfl⟩ | ⟨hp, hk, rfl⟩ | ⟨hp, rfl⟩ | ⟨hp, he, rfl⟩ | ⟨hp, he, rfl⟩
    · simp [hp, hk, SameRegisters]
    · by_cases hl : s.cnt.toNat + 1 < 19 ∧ s.eoi = false
      · obtain ⟨hcnt, he⟩ := hl
        simp [hp, hk, lineGoesOn_iff, hcnt, he, SameRegisters]
      · have hclosed : 18 ≤ s.cnt.toNat ∨ s.eoi = true := by
          simpa only [not_and_or, not_lt, Bool.not_eq_false, Nat.succ_le_succ_iff] using hl
        simp [hp, hk, lineGoesOn_iff, hl, hclosed, SameRegisters]
    · simp [hp, SameRegisters]
    · simp [hp, he, SameRegisters]
    · simp [hp, he, SameRegisters]
  | wfail =>
    obtain ⟨c, ho, rfl⟩ := exec_wfail_eq_next.mp h
    simp [exists_offered_iff.mp ⟨c, ho⟩, SameRegisters]
  | blk3 b0 b1 b2 =>
    obtain rfl := exec_blk3_eq_next.mp h
    simp [Instr.format, sameMachine_blockResult]
  | blk2 b0 b1 =>
    obtain rfl := exec_blk2_eq_next.mp h
    simp [Instr.format, sameMachine_blockResult]
  | blk1 b0 =>
    obtain rfl := exec_blk1_eq_next.mp h
    simp [Instr.format, sameMachine_blockResult]
  | blk0 => exact absurd h exec_blk0_ne_next

/-! ### The line terminator at the end of SNK (R102, R109) -/

section
variable {s t : State}

theorem endsAsWritten_of_other_phase (hlf : s.phase ≠ .lf) (hdone : s.phase ≠ .done) : EndsAsWritten s :=
  ⟨fun hp => absurd hp hlf, fun hp => absurd hp hdone⟩

/-- LF is entered by an accepted CR, and DONE by an accepted LF in LF, where SNK ends in CR already. -/
theorem exec_keeps_endsAsWritten {i : Instr} (hs : EndsAsWritten s) (h : exec i s = .next t) : EndsAsWritten t := by
  by_cases hi : i = .wack
  · subst hi
    rcases exec_wack_cases h with
      ⟨hp, -, rfl⟩ | ⟨hp, -, rfl⟩ | ⟨hp, rfl⟩ | ⟨hp, -, rfl⟩ | ⟨hp, -, rfl⟩
    · exact endsAsWritten_of_other_phase (by simp [hp]) (by simp [hp])
    · cases hl : lineGoesOn s.cnt s.eoi <;> exact endsAsWritten_of_other_phase (by simp) (by simp)
    · exact ⟨fun _ => List.suffix_append s.snk [Config.cr], nofun⟩
    · obtain ⟨front, hfront⟩ := hs.1 hp
      exact ⟨nofun, fun _ => ⟨front, by simp [← hfront]⟩⟩
    · exact endsAsWritten_of_other_phase (by simp) (by simp)
  · cases transfer_of_exec h with
    | still _ _ _ hsame =>
      obtain ⟨⟨-, -, -, -, -, -, hphase, -⟩, -, hsnk⟩ := hsame
      rw [EndsAsWritten, hphase, hsnk]
      exact hs
    | start | chunk | endInput | rdfail | wfail => exact endsAsWritten_of_other_phase (by simp) (by simp)
    | nextChar | groupDone | crDone | lastLine | nextLine => exact absurd rfl hi

end

/-- Settles O41: a reset leads to IDLE, where nothing is claimed, and every operation keeps the claim. -/
theorem successEndsInALineTerminator : Obligations.SuccessEndsInALineTerminator := by
  refine ⟨fun l s t hs hl h => ?_, fun s hp => endsAsWritten_of_other_phase (by simp [hp]) (by simp [hp])⟩
  rcases runLine_next_cases_of_not_attaches hl h with rfl | ⟨i, hexec⟩ | rfl
  · exact endsAsWritten_of_other_phase nofun nofun
  · exact exec_keeps_endsAsWritten hs hexec
  · exact hs

/-! ### What a read word does, by what the reference algorithm makes of it -/

section
variable {s : State} {w : RWord} {g : Group}

theorem exec_readResponse_of_err (hp : s.phase = .read) (herr : RWord.err w = true) :
    exec (decodeReadResponse w) s = .next (raiseFailure .readFailure (loseBytes s)) := by
  rw [decodeReadResponse, if_pos herr]
  exact exec_rdfail_eq_next.mpr ⟨hp, rfl⟩

/-- A word without ERR that carries a chunk is received as a chunk of LEN bytes; the lanes beyond LEN do not count. -/
theorem exec_readResponse_of_block (hp : s.phase = .read) (herr : RWord.err w = false) (hg : refBlock w = some g) :
    ∃ n b0 b1 b2, exec (decodeReadResponse w) s = .next (receiveChunk n b0 b1 b2 s) ∧
      encodeBlock n b0 b1 b2 = g ∧ n.bytes = (RWord.len w).toNat := by
  rw [decodeReadResponse, if_neg (by simp [herr])]
  unfold refBlock at hg
  split_ifs at hg ⊢ with h3 h2 h1
  · exact ⟨.three, _, _, _, exec_enc3_eq_next.mpr ⟨hp, rfl⟩, Option.some.inj hg, by simp [h3]⟩
  · refine ⟨.two, _, _, 0, exec_enc2_eq_next.mpr ⟨hp, rfl⟩, ?_, by simp [h2]⟩
    rw [← Option.some.inj hg, encodeBlock_two, encodeBlock_two]
  · refine ⟨.one, _, 0, 0, exec_enc1_eq_next.mpr ⟨hp, rfl⟩, ?_, by simp [h1]⟩
    rw [← Option.some.inj hg, encodeBlock_one, encodeBlock_one]

theorem exec_readResponse_of_no_block (hp : s.phase = .read) (herr : RWord.err w = false) (hg : refBlock w = none) :
    exec (decodeReadResponse w) s = .next { s with eoi := true, phase := .cr } := by
  rw [decodeReadResponse, if_neg (by simp [herr])]
  unfold refBlock at hg
  split_ifs at hg ⊢
  exact exec_endInput_eq_next.mpr ⟨hp, rfl⟩

/-! ### Part of a group (R110, R111) -/

/-- The state in which `j` characters of the group have been accepted. -/
def afterChars (j : Nat) (s : State) : State :=
  { s with snk := s.snk ++ s.obuf.chars.take j, k := BitVec.ofNat 2 j }

theorem get_ofNat {j : Nat} (hj : j < 4) : g.chars[j]? = some (g.get (BitVec.ofNat 2 j)) := by
  rw [← get_eq_chars, BitVec.toNat_ofNat, Nat.mod_eq_of_lt hj]

/-- Up to three accepted characters leave the encoder in EMIT, with the next one on offer. -/
theorem runWith_chars (hp : s.phase = .emit) (hk : s.k = 0) (reads : List RWord) {j : Nat} (hj : j < 4) (i : Nat)
    (rest : List WWord) :
    runWith (i + j) { reads := reads, writes := List.replicate j 0 ++ rest } s =
      runWith i { reads := reads, writes := rest } (afterChars j s) := by
  induction j generalizing i rest with
  | zero =>
    have hs : afterChars 0 s = s := by
      rw [afterChars, ← show s.k = BitVec.ofNat 2 0 from hk]
      simp
    rw [hs]
    rfl
  | succ j ih =>
    have htake : s.obuf.chars.take (j + 1) = s.obuf.chars.take j ++ [s.obuf.get (BitVec.ofNat 2 j)] := by
      rw [List.take_add_one, get_ofNat (by omega)]
      rfl
    have hnext : { sinkAccept (s.obuf.get (BitVec.ofNat 2 j)) (afterChars j s) with k := BitVec.ofNat 2 j + 1 } =
        afterChars (j + 1) s := by
      simp [afterChars, sinkAccept, htake, BitVec.ofNat_add]
    have hwithin : (afterChars j s).k.toNat < 3 := by
      simp only [afterChars, BitVec.toNat_ofNat]
      omega
    calc runWith (i + (j + 1)) { reads := reads, writes := List.replicate (j + 1) 0 ++ rest } s
        = runWith (i + 1 + j) { reads := reads, writes := List.replicate j 0 ++ 0 :: rest } s := by
          rw [List.replicate_succ', List.append_assoc, List.singleton_append, Nat.add_assoc, Nat.add_comm 1 j]
      _ = runWith (i + 1) { reads := reads, writes := 0 :: rest } (afterChars j s) := ih (by omega) _ _
      _ = runWith i { reads := reads, writes := rest } (afterChars (j + 1) s) := by
          rw [runWith_ack_within (s := afterChars j s) hp hwithin rfl]
          exact congrArg _ hnext

end

/-- Settles O54: the read loads OBUF with the group (`exec_readResponse_of_block`), and each write takes its next
character; the fourth counts the group (`runWith_group`). -/
theorem groupIsWrittenAtOnce : Obligations.GroupIsWrittenAtOnce := by
  intro s w g hp herr hg
  obtain ⟨n, b0, b1, b2, hexec, rfl, -⟩ := exec_readResponse_of_block hp herr hg
  refine ⟨fun k hk => ?_, afterGroup (receiveChunk n b0 b1 b2 s), ?_, rfl, rfl⟩
  · refine ⟨afterChars k (receiveChunk n b0 b1 b2 s), ?_, rdreq_false_iff.mpr nofun, ?_, rfl, rfl⟩
    · have hwrites : ([0, 0, 0, 0] : List WWord) = List.replicate k 0 ++ List.replicate (4 - k) 0 := by
        rw [List.replicate_append_replicate, Nat.add_sub_cancel' hk.le]
        rfl
      have hrun := runWith_chars (s := receiveChunk n b0 b1 b2 s) rfl rfl [] hk 0 (List.replicate (4 - k) 0)
      rw [Nat.zero_add, ← hwrites] at hrun
      exact (runWith_read hp rfl hexec).trans hrun
    · exact (get_ofNat hk).symm
  · rw [runWith_read hp rfl hexec, runWith_group (k := 0) rfl rfl rfl, runWith_zero]

/-- Settles O55: END leads straight to the terminator (R98), which is written and ends the invocation, as EOI is set. -/
theorem emptyInputWritesOneTerminator : Obligations.EmptyInputWritesOneTerminator := by
  intro s b0 b1 b2 ha
  have hread : exec (decodeReadResponse (packRead 0 0 b0 b1 b2)) (beginInvocation s) =
      .next { beginInvocation s with eoi := true, phase := .cr } := by
    rw [Decoded.instr.inj (decode_packRead_ok 0 b0 b1 b2)]
    exact exec_endInput_eq_next.mpr ⟨rfl, rfl⟩
  have hrun : runWith 3 { reads := [packRead 0 0 b0 b1 b2], writes := [0, 0] } (beginInvocation s) =
      .next (afterTerminator { beginInvocation s with eoi := true, phase := .cr }) := by
    rw [runWith_read rfl rfl hread, runWith_terminator (k := 0) rfl rfl, runWith_zero]
  exact ⟨_, _, exec_start_of_acceptsStart ha, hrun, rfl, rfl, rfl, rfl, rfl⟩

/-! ### A run to the end of the environment's answers -/

/-- The machine against an environment until it asks for an answer that is not there, or asks for nothing: each
transaction uses up one answer. -/
def runOut (e : Environment) (s : State) : Host.Outcome State Fault Refusal :=
  runWith (e.reads.length + e.writes.length) e s

section
variable {s t : State} {e : Environment}

theorem runOut_read {w : RWord} {rest : List RWord} (hp : s.phase = .read) (he : e.reads = w :: rest)
    (hx : exec (decodeReadResponse w) s = .next t) : runOut e s = runOut { e with reads := rest } t := by
  rw [runOut, he, List.length_cons, Nat.add_right_comm]
  exact runWith_read hp he hx

theorem runOut_write {c : Char8} {a : WWord} {rest : List WWord} (ho : s.offered = some c)
    (he : e.writes = a :: rest) (hx : exec (decodeWriteResponse a) s = .next t) :
    runOut e s = runOut { e with writes := rest } t := by
  rw [runOut, he, List.length_cons, ← Nat.add_assoc]
  exact runWith_write ho he hx

theorem runOut_of_no_answer (h : e.answer s = none) : runOut e s = .next s := runWith_of_no_answer h

theorem answer_eq_none_of_no_reads (hp : s.phase = .read) (he : e.reads = []) : e.answer s = none := by
  simp [Environment.answer, rdreq_iff.mpr hp, he]

theorem answer_eq_none_of_no_writes {c : Char8} (ho : s.offered = some c) (he : e.writes = []) :
    e.answer s = none := by
  have hr : s.rdreq = false := rdreq_false_iff.mpr fun hp => by simp [State.offered, hp] at ho
  simp [Environment.answer, hr, ho, he]

/-- Outside READ, EMIT, CR and LF the encoder asks for nothing (R94, R100 to R102). -/
theorem answer_eq_none_of_not_busy (h : s.busy = false) : e.answer s = none := by
  rw [State.busy] at h
  rw [Environment.answer, State.rdreq, State.offered]
  cases hp : s.phase <;> simp [hp] at h ⊢

end

/-! ### Against the reference algorithm (R91) -/

/-- The machine's registers and what it has added to `base`, the sink's content at START, are the algorithm's. -/
structure Agrees (base : List Char8) (s : State) (m : RefState) : Prop where
  cnt : s.cnt.toNat = m.cnt
  eoi : s.eoi = m.eoi
  cause : s.cause = .none
  snk : s.snk = base ++ m.out

/-- The machine has ended, or waits, as the algorithm has stopped. -/
def EndsAs (base : List Char8) (why : RefStop) (m : RefState) (t : State) : Prop :=
  t.cnt.toNat = m.cnt ∧ t.eoi = m.eoi ∧
    match why with
    | .success => t.phase = .done ∧ t.cause = .none ∧ t.snk = base ++ m.out
    | .readFailure => t.phase = .failed ∧ t.cause = .readFailure ∧ t.snk = base ++ m.out
    | .writeFailure c => t.phase = .failed ∧ t.cause = .writeFailure ∧
        (t.snk = base ++ m.out ∨ t.snk = base ++ m.out ++ [c])
    | .waiting => t.busy = true ∧ t.snk = base ++ m.out

/-- The run of the machine from `s` against `e` performs the part `r` of the algorithm: where `r` stops the run ends so,
and where `r` goes on the run passes through a state that `post` relates to the algorithm's. -/
def Performs (base : List Char8) (r : RefRun) (post : State → RefState → Prop) (e : Environment) (s : State) : Prop :=
  match r with
  | .goesOn m => ∃ t, runOut e s = runOut m.env t ∧ post t m
  | .stops why m => ∃ t, runOut e s = .next t ∧ EndsAs base why m t

section
variable {base : List Char8} {s t : State} {m : RefState} {e e' : Environment} {post post' : State → RefState → Prop}

theorem Performs.andThen {r : RefRun} {f : RefState → RefRun} (h : Performs base r post e s)
    (hf : ∀ t m, post t m → Performs base (f m) post' m.env t) : Performs base (r.andThen f) post' e s := by
  cases r with
  | stops why m => exact h
  | goesOn m =>
    obtain ⟨t, hrun, ht⟩ := h
    rw [RefRun.andThen]
    unfold Performs at hf ⊢
    rw [hrun]
    exact hf t m ht

/-- A transaction before the part that performs it. -/
theorem Performs.of_runOut {r : RefRun} (hrun : runOut e s = runOut e' t) (h : Performs base r post e' t) :
    Performs base r post e s := by
  unfold Performs at h ⊢
  rwa [hrun]

/-- `SinkWrite`: accepted, refused, or never answered. -/
theorem performs_write {c : Char8} (ho : s.offered = some c) (h : Agrees base s m)
    (hpost : ∀ m', Agrees base (sinkAccept c s) m' → m'.env.reads = m.env.reads →
      post (advanceWrite (sinkAccept c s)) m') :
    Performs base (refWrite c m) post m.env s := by
  rw [refWrite]
  cases hw : m.env.writes with
  | nil =>
    have hbusy : s.busy = true := busy_iff.mpr (.inr (exists_offered_iff.mp ⟨c, ho⟩))
    exact ⟨s, runOut_of_no_answer (answer_eq_none_of_no_writes ho hw), h.cnt, h.eoi, hbusy, h.snk⟩
  | cons a rest =>
    by_cases ha : a = 0
    · have hack : exec (decodeWriteResponse a) s = .next (advanceWrite (sinkAccept c s)) := by
        rw [ha]
        exact exec_wack_eq_next.mpr ⟨c, ho, rfl⟩
      simp only [ha, if_true]
      refine ⟨_, runOut_write ho hw hack, hpost _ ⟨h.cnt, h.eoi, h.cause, ?_⟩ rfl⟩
      simp [h.snk]
    · have hfail : exec (decodeWriteResponse a) s = .next (raiseFailure .writeFailure (mayAppend c s)) := by
        rw [decodeWriteResponse, if_neg ha]
        exact exec_wfail_eq_next.mpr ⟨c, ho, rfl⟩
      simp only [ha, if_false]
      refine ⟨_, (runOut_write ho hw hfail).trans (runOut_of_no_answer (answer_eq_none_of_not_busy rfl)), h.cnt, h.eoi,
        rfl, rfl, ?_⟩
      rw [← h.snk]
      exact mayAppend_snk_cases c s

/-! The four writes of a group. -/

/-- In EMIT at character `k` of the group `g`, with `n` groups before it on the line, and `reads` the answers to the
reads still to come. -/
structure Writing (base : List Char8) (g : Group) (reads : List RWord) (n : Nat) (k : BitVec 2) (s : State)
    (m : RefState) : Prop where
  agrees : Agrees base s m
  phase : s.phase = .emit
  obuf : s.obuf = g
  at_k : s.k = k
  count : m.cnt = n
  reads : m.env.reads = reads

/-- The group after `n` others is written and counted, and the encoder reads on or closes the line by the test of
the inner loop. -/
structure GroupWritten (base : List Char8) (reads : List RWord) (n : Nat) (s : State) (m : RefState) : Prop where
  agrees : Agrees base s { m with cnt := m.cnt + 1 }
  phase : s.phase = if m.cnt + 1 < 19 ∧ m.eoi = false then .read else .cr
  count : m.cnt = n
  reads : m.env.reads = reads

variable {g : Group} {reads : List RWord} {n : Nat} {k : BitVec 2}

theorem Writing.offered (h : Writing base g reads n k s m) : s.offered = some (g.get k) := by
  rw [offered_of_emit h.phase, h.obuf, h.at_k]

theorem performs_char (h : Writing base g reads n k s m) (hk : k.toNat < 3) :
    Performs base (refWrite (g.get k) m) (Writing base g reads n (k + 1)) m.env s := by
  refine performs_write h.offered h.agrees fun m' hm hreads => ?_
  rw [advanceWrite_emit_within (by simpa using h.phase) (by simpa [h.at_k] using hk)]
  exact {
    agrees := ⟨hm.cnt, hm.eoi, hm.cause, hm.snk⟩
    phase := h.phase
    obuf := h.obuf
    at_k := by simp [h.at_k]
    count := hm.cnt.symm.trans (h.agrees.cnt.trans h.count)
    reads := hreads.trans h.reads }

theorem performs_lastChar (h : Writing base g reads n 3 s m) (hn : n < 19) :
    Performs base (refWrite g.c3 m) (GroupWritten base reads n) m.env s := by
  refine performs_write h.offered h.agrees fun m' hm hreads => ?_
  rw [advanceWrite_emit_last (by simpa using h.phase) (by simp [h.at_k])]
  have hcount : m'.cnt = n := hm.cnt.symm.trans (h.agrees.cnt.trans h.count)
  have hnowrap : (s.cnt + 1).toNat = m'.cnt + 1 := by
    rw [BitVec.toNat_add, show s.cnt.toNat = m'.cnt from hm.cnt]
    exact Nat.mod_eq_of_lt (by simp; omega)
  exact {
    agrees := ⟨hnowrap, hm.eoi, hm.cause, hm.snk⟩
    phase := by simp only [lineGoesOn_iff, hm.cnt, hm.eoi]
    count := hcount
    reads := hreads.trans h.reads }

theorem performs_group (h : Writing base g reads n 0 s m) (hn : n < 19) :
    Performs base (refGroup g m) (GroupWritten base reads n) m.env s :=
  (((performs_char h (by decide)).andThen fun _ _ h1 => performs_char h1 (by decide)).andThen
    fun _ _ h2 => performs_char h2 (by decide)).andThen fun _ _ h3 => performs_lastChar h3 hn

/-! The inner loop, pass by pass. -/

theorem refInner_of_not (k : Nat) (h : ¬ (m.cnt < 19 ∧ m.eoi = false)) : refInner k m = .goesOn m := by
  cases k with
  | zero => rfl
  | succ k => rw [refInner, if_neg h]

theorem refInner_of_no_reads (k : Nat) (h : m.cnt < 19 ∧ m.eoi = false) (hr : m.env.reads = []) :
    refInner (k + 1) m = .stops .waiting m := by
  rw [refInner, if_pos h, hr]

/-- The algorithm's state once a read is answered and the answers `rest` are left. -/
def afterRead (rest : List RWord) (m : RefState) : RefState := { m with env := { m.env with reads := rest } }

/-- One pass of the inner loop that has an answer to its read. -/
theorem refInner_of_read (k : Nat) (h : m.cnt < 19 ∧ m.eoi = false) {w : RWord} {rest : List RWord}
    (hr : m.env.reads = w :: rest) :
    refInner (k + 1) m =
      if RWord.err w then .stops .readFailure (afterRead rest m)
      else
        match refBlock w with
        | none => .goesOn { afterRead rest m with eoi := true }
        | some g =>
          (refGroup g { afterRead rest m with eoi := if (RWord.len w).toNat < 3 then true else m.eoi }).andThen
            (fun m' => refInner k { m' with cnt := m'.cnt + 1 }) := by
  rw [refInner, if_pos h, hr]
  rfl

/-- At the head of the inner loop, about to read. -/
structure Reading (base : List Char8) (s : State) (m : RefState) : Prop where
  agrees : Agrees base s m
  phase : s.phase = .read
  loops : m.cnt < 19 ∧ m.eoi = false

/-- At the line terminator, with fewer than `n` answers to reads left. -/
structure Closing (base : List Char8) (n : Nat) (s : State) (m : RefState) : Prop where
  agrees : Agrees base s m
  phase : s.phase = .cr
  reads : m.env.reads.length < n

/-- A chunk that is read brings the encoder to the first character of its group. -/
theorem writing_of_read (h : Reading base s m) {w : RWord} (rest : List RWord) (herr : RWord.err w = false)
    (hg : refBlock w = some g) :
    ∃ t, exec (decodeReadResponse w) s = .next t ∧ Writing base g rest m.cnt 0 t
      { afterRead rest m with eoi := if (RWord.len w).toNat < 3 then true else m.eoi } := by
  obtain ⟨c, b0, b1, b2, hexec, hblock, hlen⟩ := exec_readResponse_of_block h.phase herr hg
  have heoi : eoiAfterRead c.bytes s.eoi = if (RWord.len w).toNat < 3 then true else m.eoi := by
    rw [eoiAfterRead_eq, hlen, h.agrees.eoi]
  exact ⟨_, hexec, ⟨h.agrees.cnt, heoi, h.agrees.cause, h.agrees.snk⟩, rfl, hblock, rfl, rfl, rfl⟩

/-- The inner loop reads at least once, so fewer answers are left; `k` passes are enough to fill the line. -/
theorem performs_inner {n k : Nat} (h : Reading base s m) (hn : m.env.reads.length ≤ n) (hk : 19 < k + m.cnt) :
    Performs base (refInner k m) (Closing base n) m.env s := by
  induction k generalizing s m with
  | zero => exact absurd h.loops.1 (by omega)
  | succ k ih =>
    cases hr : m.env.reads with
    | nil =>
      have hbusy : s.busy = true := busy_iff.mpr (.inl h.phase)
      rw [refInner_of_no_reads k h.loops hr]
      exact ⟨s, runOut_of_no_answer (answer_eq_none_of_no_reads h.phase hr), h.agrees.cnt, h.agrees.eoi, hbusy,
        h.agrees.snk⟩
    | cons w rest =>
      have hrest : rest.length < n := by simpa [hr] using hn
      rw [refInner_of_read k h.loops hr]
      cases herr : RWord.err w with
      | true =>
        have hrun := runOut_read h.phase hr (exec_readResponse_of_err h.phase herr)
        exact ⟨_, hrun.trans (runOut_of_no_answer (answer_eq_none_of_not_busy rfl)), h.agrees.cnt, h.agrees.eoi, rfl,
          rfl, h.agrees.snk⟩
      | false =>
        cases hg : refBlock w with
        | none =>
          have hrun := runOut_read h.phase hr (exec_readResponse_of_no_block h.phase herr hg)
          exact ⟨_, hrun, ⟨h.agrees.cnt, rfl, h.agrees.cause, h.agrees.snk⟩, rfl, hrest⟩
        | some g =>
          obtain ⟨u, hexec, hwriting⟩ := writing_of_read h rest herr hg
          refine .of_runOut (runOut_read h.phase hr hexec)
            ((performs_group hwriting h.loops.1).andThen fun t m' ht => ?_)
          have hcount : m'.cnt = m.cnt := ht.count
          by_cases hloop : m'.cnt + 1 < 19 ∧ m'.eoi = false
          · exact ih ⟨ht.agrees, by rw [ht.phase, if_pos hloop], hloop⟩ (by simpa [ht.reads] using hrest.le)
              (by simp only; omega)
          · rw [refInner_of_not k hloop]
            exact ⟨t, rfl, ht.agrees, by rw [ht.phase, if_neg hloop], by simpa [ht.reads] using hrest⟩

/-! The line terminator and the outer loop. -/

/-- CR is written and LF is on offer. -/
structure CrWritten (base : List Char8) (n : Nat) (s : State) (m : RefState) : Prop where
  agrees : Agrees base s m
  phase : s.phase = .lf
  reads : m.env.reads.length < n

/-- The terminator is written: the invocation ends where end of input is known, and else a new line begins. -/
structure TerminatorWritten (base : List Char8) (n : Nat) (s : State) (m : RefState) : Prop where
  agrees : Agrees base s (if m.eoi then m else { m with cnt := 0 })
  phase : s.phase = if m.eoi then .done else .read
  reads : m.env.reads.length < n

theorem performs_cr (h : Closing base n s m) :
    Performs base (refWrite Config.cr m) (CrWritten base n) m.env s := by
  refine performs_write (offered_of_cr h.phase) h.agrees fun m' hm hreads => ?_
  rw [advanceWrite_cr (by simpa using h.phase)]
  exact ⟨⟨hm.cnt, hm.eoi, hm.cause, hm.snk⟩, rfl, hreads ▸ h.reads⟩

theorem performs_lf (h : CrWritten base n s m) :
    Performs base (refWrite Config.lf m) (TerminatorWritten base n) m.env s := by
  refine performs_write (offered_of_lf h.phase) h.agrees fun m' hm hreads => ?_
  rw [advanceWrite_lf (by simpa using h.phase)]
  cases he : m'.eoi with
  | true =>
    rw [if_pos (hm.eoi.trans he)]
    exact {
      agrees := by rw [he, if_pos rfl]; exact ⟨hm.cnt, hm.eoi, hm.cause, hm.snk⟩
      phase := by simp [he]
      reads := hreads ▸ h.reads }
  | false =>
    rw [if_neg (by rw [hm.eoi, he]; exact Bool.false_ne_true)]
    exact {
      agrees := by rw [he, if_neg Bool.false_ne_true]; exact ⟨rfl, hm.eoi.trans he, hm.cause, hm.snk⟩
      phase := by simp [he]
      reads := hreads ▸ h.reads }

theorem performs_terminator (h : Closing base n s m) :
    Performs base (refTerminator m) (TerminatorWritten base n) m.env s :=
  (performs_cr h).andThen fun _ _ hcr => performs_lf hcr

/-- The outer loop never runs out of passes, as each reads at least once, so it stops as the algorithm does. -/
theorem performs_outer {k : Nat} (h : Reading base s { m with cnt := 0 }) (hk : m.env.reads.length < k) :
    Performs base (refOuter k m) (fun _ _ => False) m.env s := by
  induction k generalizing s m with
  | zero => exact absurd hk (Nat.not_lt_zero _)
  | succ k ih =>
    refine ((performs_inner h (Nat.le_of_lt_succ hk) (by simp)).andThen fun _ _ => performs_terminator).andThen
      fun t m' ht => ?_
    cases he : m'.eoi with
    | true =>
      have hdone : t.phase = .done := by rw [ht.phase, he, if_pos rfl]
      have hagrees : Agrees base t m' := by simpa only [he, if_true] using ht.agrees
      have hbusy : t.busy = false := by rw [State.busy, hdone]
      exact ⟨t, runOut_of_no_answer (answer_eq_none_of_not_busy hbusy), hagrees.cnt, hagrees.eoi, hdone, hagrees.cause,
        hagrees.snk⟩
    | false =>
      have hagrees : Agrees base t { m' with cnt := 0 } := by
        simpa only [he, Bool.false_eq_true, if_false] using ht.agrees
      exact ih ⟨hagrees, by rw [ht.phase, he, if_neg Bool.false_ne_true], by simp, he⟩ ht.reads

end

/-- Settles O57: the run from START performs the outer loop (`performs_outer`), which only ever stops. -/
theorem stepsPerformTheReferenceAlgorithm : Obligations.StepsPerformTheReferenceAlgorithm := by
  intro s e ha
  have hbegin : Reading s.snk (beginInvocation s) { cnt := 0, eoi := false, out := [], env := e } :=
    ⟨⟨rfl, rfl, rfl, by simp⟩, rfl, by simp⟩
  have hperforms : Performs s.snk (refEncode e) (fun _ _ => False) e (beginInvocation s) :=
    performs_outer hbegin (Nat.lt_succ_self _)
  cases hrun : refEncode e with
  | goesOn m =>
    rw [hrun] at hperforms
    obtain ⟨t, -, hfalse⟩ := hperforms
    exact hfalse.elim
  | stops why m =>
    rw [hrun] at hperforms
    obtain ⟨t, ht, hcnt, heoi, hend⟩ := hperforms
    exact ⟨_, t, exec_start_of_acceptsStart ha, ht, why, m, rfl, hcnt, heoi, by cases why <;> exact hend⟩

/-! ### The output grammar (R112, R113) -/

section
variable {bytes : List Byte} {l : Nat}

theorem terminatorCount_eq (l : Nat) : terminatorCount l = l / 57 + 1 := by
  unfold terminatorCount groupCount
  split_ifs <;> omega

theorem groupCount_add_mul_three (l q : Nat) : groupCount (l + 3 * q) = groupCount l + q := by
  unfold groupCount
  split_ifs <;> omega

theorem groupCount_of_dvd (h : l % 3 = 0) : groupCount l = l / 3 := by rw [groupCount, if_pos h, Nat.add_zero]

theorem groupCount_of_not_dvd (h : l % 3 ≠ 0) : groupCount l = l / 3 + 1 := by rw [groupCount, if_neg h]

theorem lt_of_lt_groupCount {i : Nat} (h : i < groupCount l) : 3 * i < l := by
  unfold groupCount at h
  split_ifs at h <;> omega

/-- The groups of the first `n` chunks. -/
def firstGroups (n : Nat) (bytes : List Byte) : List (List Char8) :=
  (List.range n).map fun i => firstGroup (bytes.drop (3 * i))

theorem groupsOf_eq_firstGroups (bytes : List Byte) :
    groupsOf bytes = firstGroups (groupCount bytes.length) bytes := rfl

theorem firstGroups_succ (n : Nat) (bytes : List Byte) :
    firstGroups (n + 1) bytes = firstGroups n bytes ++ [firstGroup (bytes.drop (3 * n))] := by
  simp [firstGroups, List.range_succ]

theorem firstGroups_add (m n : Nat) (bytes : List Byte) :
    firstGroups (m + n) bytes = firstGroups m bytes ++ firstGroups n (bytes.drop (3 * m)) := by
  simp [firstGroups, List.range_add, Nat.mul_add, Function.comp_def]

theorem length_groupsOf (bytes : List Byte) : (groupsOf bytes).length = groupCount bytes.length := by
  simp [groupsOf]

/-- A full line leaves the groups of the bytes after it. -/
theorem groupsOf_of_full_line (h : 57 ≤ bytes.length) :
    groupsOf bytes = firstGroups 19 bytes ++ groupsOf (bytes.drop 57) := by
  have hcount : groupCount bytes.length = 19 + groupCount (bytes.drop 57).length := by
    rw [List.length_drop, Nat.add_comm, ← groupCount_add_mul_three, Nat.sub_add_cancel h]
  rw [groupsOf_eq_firstGroups, hcount, firstGroups_add, groupsOf_eq_firstGroups]

theorem length_firstGroups (n : Nat) (bytes : List Byte) : (firstGroups n bytes).length = n := by simp [firstGroups]

theorem length_firstGroup (h : bytes ≠ []) : (firstGroup bytes).length = 4 := by
  match bytes, h with
  | _ :: _ :: _ :: _, _ => rfl
  | [_, _], _ => rfl
  | [_], _ => rfl

theorem length_of_mem_groupsOf {g : List Char8} (h : g ∈ groupsOf bytes) : g.length = 4 := by
  obtain ⟨i, hi, rfl⟩ := List.mem_map.mp h
  have hlt := lt_of_lt_groupCount (List.mem_range.mp hi)
  exact length_firstGroup (by simpa using hlt)

theorem length_flatten_of_groups {groups : List (List Char8)} (h : ∀ g ∈ groups, g.length = 4) :
    groups.flatten.length = 4 * groups.length := by
  rw [List.length_flatten, List.map_congr_left h, List.map_const', List.sum_replicate, smul_eq_mul, Nat.mul_comm]

/-- Line `t` has 19 groups where so many are left, and 78 characters with its terminator. -/
theorem length_lineText_of_full {t : Nat} (h : 19 * (t + 1) ≤ groupCount bytes.length) :
    (lineText (groupsOf bytes) t).length = 78 := by
  have hgroups : ∀ g ∈ ((groupsOf bytes).drop (19 * t)).take 19, g.length = 4 :=
    fun g hg => length_of_mem_groupsOf (List.mem_of_mem_drop (List.mem_of_mem_take hg))
  have hlength : (((groupsOf bytes).drop (19 * t)).take 19).length = 19 := by
    rw [List.length_take, List.length_drop, length_groupsOf]
    omega
  rw [lineText, List.length_append, length_flatten_of_groups hgroups, hlength]
  rfl

theorem lineText_succ (groups : List (List Char8)) (t : Nat) :
    lineText groups (t + 1) = lineText (groups.drop 19) t := by
  rw [lineText, lineText, List.drop_drop, Nat.mul_succ, Nat.add_comm]

/-- A line with no group left for it is the bare terminator (R106). -/
theorem lineText_of_length_le {groups : List (List Char8)} {t : Nat} (h : groups.length ≤ 19 * t) :
    lineText groups t = [Config.cr, Config.lf] := by
  rw [lineText, List.drop_eq_nil_of_le h]
  rfl

/-- The first line of an input that fills it. -/
theorem lineText_zero_of_full_line (h : 57 ≤ bytes.length) :
    lineText (groupsOf bytes) 0 = (firstGroups 19 bytes).flatten ++ [Config.cr, Config.lf] := by
  rw [lineText, groupsOf_of_full_line h, Nat.mul_zero, List.drop_zero,
    List.take_left' (length_firstGroups 19 bytes)]

theorem outputText_of_full_line (h : 57 ≤ bytes.length) :
    outputText bytes = lineText (groupsOf bytes) 0 ++ outputText (bytes.drop 57) := by
  have hcount : terminatorCount bytes.length = terminatorCount (bytes.drop 57).length + 1 := by
    rw [terminatorCount_eq, terminatorCount_eq, List.length_drop]
    omega
  have hdrop : (groupsOf bytes).drop 19 = groupsOf (bytes.drop 57) := by
    rw [groupsOf_of_full_line h, List.drop_left' (length_firstGroups 19 bytes)]
  rw [outputText, hcount, List.range_succ_eq_map, List.map_cons, List.map_map, List.flatten_cons]
  congr 2
  exact List.map_congr_left fun t _ => by rw [Function.comp, lineText_succ, hdrop]

/-- An input that does not fill a line is written as one. -/
theorem outputText_of_last_line (h : bytes.length < 57) :
    outputText bytes = (groupsOf bytes).flatten ++ [Config.cr, Config.lf] := by
  have hlines : terminatorCount bytes.length = 1 := by rw [terminatorCount_eq, Nat.div_eq_of_lt h]
  have htake : (groupsOf bytes).take 19 = groupsOf bytes := by
    refine List.take_of_length_le ?_
    rw [length_groupsOf]
    by_contra hmore
    exact absurd (lt_of_lt_groupCount (not_le.mp hmore)) (by omega)
  rw [outputText, hlines]
  simp [lineText, htake]

/-- An input is written line by line: what holds of the last line's input, and of an input whenever it holds of what a
full line leaves of it, holds of every input. -/
theorem line_induction {P : List Byte → Prop} (last : ∀ bytes, bytes.length < 57 → P bytes)
    (full : ∀ bytes, 57 ≤ bytes.length → P (bytes.drop 57) → P bytes) (bytes : List Byte) : P bytes := by
  induction hl : bytes.length using Nat.strong_induction_on generalizing bytes with
  | _ l ih =>
    by_cases h : bytes.length < 57
    · exact last bytes h
    · refine full bytes (not_lt.mp h) (ih (l - 57) (by omega) _ ?_)
      rw [List.length_drop, hl]

theorem writeCount_add_line (l : Nat) : writeCount (l + 57) = writeCount l + 78 := by
  have hgroups : groupCount (l + 57) = groupCount l + 19 := groupCount_add_mul_three l 19
  rw [writeCount, writeCount, terminatorCount_eq, terminatorCount_eq, hgroups]
  omega

theorem writeCount_of_last_line (h : l < 57) : writeCount l = 4 * groupCount l + 2 := by
  rw [writeCount, terminatorCount_eq, Nat.div_eq_of_lt h]

/-- The output length of R112. -/
theorem length_outputText (bytes : List Byte) : (outputText bytes).length = writeCount bytes.length := by
  induction bytes using line_induction with
  | last bytes h =>
    have hgroups := length_flatten_of_groups fun g (hg : g ∈ groupsOf bytes) => length_of_mem_groupsOf hg
    rw [outputText_of_last_line h, List.length_append, hgroups, length_groupsOf, writeCount_of_last_line h]
    rfl
  | full bytes h ih =>
    have hfull : 19 * (0 + 1) ≤ groupCount bytes.length := by
      rw [← length_groupsOf, groupsOf_of_full_line h, List.length_append, length_firstGroups]
      omega
    rw [outputText_of_full_line h, List.length_append, ih, length_lineText_of_full hfull, List.length_drop,
      Nat.add_comm, ← writeCount_add_line, Nat.sub_add_cancel h]

end

/-- Settles O56: 57k bytes give 19k groups, so k lines are full and no group is left for the line after them. -/
theorem fullLinesAreFollowedByABareTerminator : Obligations.FullLinesAreFollowedByABareTerminator := by
  intro bytes k hlength
  have hgroups : groupCount bytes.length = 19 * k := by
    rw [groupCount_of_dvd (by omega)]
    omega
  have hlines : terminatorCount bytes.length = k + 1 := by
    rw [terminatorCount_eq]
    omega
  refine ⟨?_, ?_, fun j hj => ⟨length_lineText_of_full (by omega), List.suffix_append _ _⟩⟩
  · rw [length_outputText, writeCount, hgroups, hlines]
    omega
  · have hbare : lineText (groupsOf bytes) k = [Config.cr, Config.lf] :=
      lineText_of_length_le (by rw [length_groupsOf, hgroups])
    rw [outputText, hlines, List.range_succ, List.map_append, List.flatten_append, List.map_singleton, hbare]
    rfl

/-! ### A canonical invocation, chunk by chunk and line by line (R112) -/

section
variable {s t u : State} {bytes : List Byte} {out : List Char8}

theorem finalCount_of_last_line {l : Nat} (h : l < 57) : finalCount l = groupCount l := by
  unfold finalCount groupCount
  split_ifs <;> omega

theorem finalCount_add_line (l : Nat) : finalCount (l + 57) = finalCount l := by
  have hgroups : groupCount (l + 57) = groupCount l + 19 := groupCount_add_mul_three l 19
  have hrest : (l + 57) % 3 = l % 3 := by omega
  rw [finalCount, finalCount, hgroups, hrest, Nat.add_mod_right]

/-- `reads` answered reads and `writes` accepted writes lead from `s` to `t`, with the source's answers going from `r`
to `r'`, whatever the sink still answers. -/
def LeadsTo (reads writes : Nat) (r r' : List RWord) (s t : State) : Prop :=
  ∀ k w, runWith (k + (reads + writes)) { reads := r, writes := ackAll (w + writes) } s =
    runWith k { reads := r', writes := ackAll w } t

theorem leadsTo_refl (r : List RWord) (s : State) : LeadsTo 0 0 r r s s := fun _ _ => rfl

theorem LeadsTo.trans {reads reads' writes writes' : Nat} {r r' r'' : List RWord}
    (h : LeadsTo reads writes r r' s t) (h' : LeadsTo reads' writes' r' r'' t u) :
    LeadsTo (reads + reads') (writes + writes') r r'' s u := by
  intro k w
  have hk : k + (reads + reads' + (writes + writes')) = k + (reads' + writes') + (reads + writes) := by omega
  have hw : w + (writes + writes') = w + writes' + writes := by omega
  rw [hk, hw, h, h']

theorem leadsTo_terminator (hp : s.phase = .cr) (r : List RWord) : LeadsTo 0 2 r r s (afterTerminator s) :=
  fun _ _ => runWith_terminator hp rfl

/-- The registers and streams between two transactions of a canonical invocation: PHASE, CNT, EOI, what the source still
holds and what the sink has. -/
structure StandsAt (p : Phase) (c : Nat) (e : Bool) (src : List Byte) (snk : List Char8) (s : State) : Prop where
  phase : s.phase = p
  cnt : s.cnt.toNat = c
  eoi : s.eoi = e
  cause : s.cause = .none
  src : s.src = src
  snk : s.snk = snk

/-- The canonical source's next chunk: its bytes leave the source, and OBUF holds their group. -/
theorem exec_canonicalWord (hp : s.phase = .read) (hb : bytes ≠ []) :
    ∃ n b0 b1 b2, exec (decodeReadResponse (canonicalWord bytes)) s = .next (receiveChunk n b0 b1 b2 s) ∧
      (encodeBlock n b0 b1 b2).chars = firstGroup bytes ∧ n.bytes = min 3 bytes.length := by
  match bytes, hb with
  | b0 :: b1 :: b2 :: rest, _ =>
    refine ⟨.three, b0, b1, b2, ?_, rfl, by simp⟩
    rw [canonicalWord, Decoded.instr.inj (decode_packRead_ok 3 b0 b1 b2)]
    exact exec_enc3_eq_next.mpr ⟨hp, rfl⟩
  | [b0, b1], _ =>
    refine ⟨.two, b0, b1, 0, ?_, rfl, rfl⟩
    rw [canonicalWord, Decoded.instr.inj (decode_packRead_ok 2 b0 b1 0)]
    exact exec_enc2_eq_next.mpr ⟨hp, rfl⟩
  | [b0], _ =>
    refine ⟨.one, b0, 0, 0, ?_, rfl, rfl⟩
    rw [canonicalWord, Decoded.instr.inj (decode_packRead_ok 1 b0 0 0)]
    exact exec_enc1_eq_next.mpr ⟨hp, rfl⟩

/-- One chunk is read and its group written and counted. -/
theorem leadsTo_chunk {c : Nat} (h : StandsAt .read c false bytes out s) (hc : c < 19) (hb : bytes ≠ []) :
    ∃ t, StandsAt (if c + 1 < 19 ∧ 3 ≤ bytes.length then .read else .cr) (c + 1) (decide (bytes.length < 3))
        (bytes.drop 3) (out ++ firstGroup bytes) t ∧
      LeadsTo 1 4 (feed bytes) (if 3 ≤ bytes.length then feed (bytes.drop 3) else []) s t := by
  obtain ⟨n, b0, b1, b2, hexec, hchars, hlen⟩ := exec_canonicalWord h.phase hb
  have heoi : eoiAfterRead n.bytes s.eoi = decide (bytes.length < 3) := by
    simp [eoiAfterRead_eq, h.eoi, hlen]
  refine ⟨afterGroup (receiveChunk n b0 b1 b2 s), ⟨?_, ?_, heoi, h.cause, ?_, ?_⟩, fun k w => ?_⟩
  · simp only [afterGroup, lineGoesOn_iff, receiveChunk_cnt, receiveChunk_eoi, heoi, h.cnt, decide_eq_false_iff_not,
      not_lt]
  · simp only [afterGroup, receiveChunk_cnt, BitVec.toNat_add, h.cnt]
    exact Nat.mod_eq_of_lt (by simp; omega)
  · simp [afterGroup, h.src, hlen, List.drop_eq_drop_iff]
  · simp only [afterGroup, receiveChunk_snk, receiveChunk_obuf, h.snk, hchars]
  · rw [feed_eq_cons bytes, ← Nat.add_assoc, Nat.add_right_comm, runWith_read h.phase rfl hexec]
    exact runWith_group rfl rfl rfl

/-- Full chunks on one line. -/
theorem leadsTo_fullChunks (h : StandsAt .read 0 false bytes out s) {q : Nat} (hq : q ≤ 19)
    (hlen : 3 * q ≤ bytes.length) :
    ∃ t, StandsAt (if q < 19 then .read else .cr) q false (bytes.drop (3 * q))
        (out ++ (firstGroups q bytes).flatten) t ∧
      LeadsTo q (4 * q) (feed bytes) (feed (bytes.drop (3 * q))) s t := by
  induction q with
  | zero => exact ⟨s, by simpa [firstGroups] using h, leadsTo_refl _ s⟩
  | succ q ih =>
    obtain ⟨t, ht, hrun⟩ := ih (by omega) (by omega)
    rw [if_pos (by omega)] at ht
    have hleft : 3 ≤ (bytes.drop (3 * q)).length := by rw [List.length_drop]; omega
    have hne : bytes.drop (3 * q) ≠ [] := List.ne_nil_of_length_pos (by omega)
    obtain ⟨u, hu, hrun'⟩ := leadsTo_chunk ht (by omega) hne
    have hnot : ¬ (bytes.drop (3 * q)).length < 3 := not_lt.mpr hleft
    simp only [hleft, and_true, if_true, List.drop_drop, ← Nat.mul_succ, hnot, decide_false] at hu hrun'
    refine ⟨u, ?_, hrun.trans hrun'⟩
    rw [firstGroups_succ, List.flatten_append, List.flatten_singleton, ← List.append_assoc]
    exact hu

/-- A full line: 19 groups and the terminator, after which the next line begins. -/
theorem leadsTo_fullLine (h : StandsAt .read 0 false bytes out s) (hlen : 57 ≤ bytes.length) :
    ∃ t, StandsAt .read 0 false (bytes.drop 57) (out ++ lineText (groupsOf bytes) 0) t ∧
      LeadsTo 19 78 (feed bytes) (feed (bytes.drop 57)) s t := by
  obtain ⟨t, ht, hrun⟩ := leadsTo_fullChunks h (q := 19) le_rfl hlen
  refine ⟨afterTerminator t, ?_, hrun.trans (leadsTo_terminator ht.phase _)⟩
  rw [lineText_zero_of_full_line hlen, ← List.append_assoc]
  exact ⟨by simp [afterTerminator, ht.eoi], by simp [afterTerminator, ht.eoi], ht.eoi, ht.cause, ht.src,
    congrArg (· ++ [Config.cr, Config.lf]) ht.snk⟩

/-- The last line up to its terminator: full chunks, and a short one or END, which sets EOI. -/
theorem leadsTo_lastLine (h : StandsAt .read 0 false bytes out s) (hlen : bytes.length < 57) :
    ∃ t, StandsAt .cr (groupCount bytes.length) true [] (out ++ (groupsOf bytes).flatten) t ∧
      LeadsTo (readCount bytes.length) (4 * groupCount bytes.length) (feed bytes) [] s t := by
  obtain ⟨t, ht, hrun⟩ := leadsTo_fullChunks h (q := bytes.length / 3) (by omega) (by omega)
  rw [if_pos (by omega)] at ht
  have hleft : (bytes.drop (3 * (bytes.length / 3))).length = bytes.length % 3 := by
    rw [List.length_drop]
    omega
  rw [groupsOf_eq_firstGroups]
  by_cases hdvd : bytes.length % 3 = 0
  · have hnil : bytes.drop (3 * (bytes.length / 3)) = [] := List.eq_nil_of_length_eq_zero (hleft.trans hdvd)
    rw [hnil] at ht hrun
    have hend : LeadsTo 1 0 (feed []) [] t { t with eoi := true, phase := .cr } :=
      fun _ _ => runWith_feed_nil ht.phase _
    rw [groupCount_of_dvd hdvd]
    exact ⟨{ t with eoi := true, phase := .cr }, ⟨rfl, ht.cnt, rfl, ht.cause, ht.src, ht.snk⟩, hrun.trans hend⟩
  · have hshort : (bytes.drop (3 * (bytes.length / 3))).length < 3 := hleft ▸ Nat.mod_lt _ (by decide)
    have hne : bytes.drop (3 * (bytes.length / 3)) ≠ [] := List.ne_nil_of_length_pos (by omega)
    obtain ⟨u, hu, hrun'⟩ := leadsTo_chunk ht (by omega) hne
    simp only [hshort, not_le.mpr hshort, and_false, if_false, decide_true, List.drop_eq_nil_of_le hshort.le]
      at hu hrun'
    rw [groupCount_of_not_dvd hdvd, firstGroups_succ, List.flatten_append, List.flatten_singleton,
      ← List.append_assoc]
    exact ⟨u, hu, hrun.trans hrun'⟩

/-- A whole canonical invocation up to its last line's terminator, line by line. -/
theorem leadsTo_lastTerminator (h : StandsAt .read 0 false bytes out s) :
    ∃ t text writes, StandsAt .cr (finalCount bytes.length) true [] (out ++ text) t ∧
      text ++ [Config.cr, Config.lf] = outputText bytes ∧ writes + 2 = writeCount bytes.length ∧
      LeadsTo (readCount bytes.length) writes (feed bytes) [] s t := by
  induction bytes using line_induction generalizing s out with
  | last bytes hlen =>
    obtain ⟨t, ht, hrun⟩ := leadsTo_lastLine h hlen
    rw [finalCount_of_last_line hlen]
    exact ⟨t, _, _, ht, (outputText_of_last_line hlen).symm, (writeCount_of_last_line hlen).symm, hrun⟩
  | full bytes hlen ih =>
    obtain ⟨t, ht, hrun⟩ := leadsTo_fullLine h hlen
    obtain ⟨u, text, writes, hu, htext, hwrites, hrun'⟩ := ih ht
    have hlength : bytes.length = (bytes.drop 57).length + 57 := by
      rw [List.length_drop, Nat.sub_add_cancel hlen]
    have hreads : readCount bytes.length = 19 + readCount (bytes.drop 57).length := by
      unfold readCount
      omega
    refine ⟨u, lineText (groupsOf bytes) 0 ++ text, 78 + writes, ?_, ?_, ?_, hreads ▸ hrun.trans hrun'⟩
    · rw [hlength, finalCount_add_line, ← List.append_assoc]
      exact hu
    · rw [outputText_of_full_line hlen, List.append_assoc, htext]
    · rw [hlength, writeCount_add_line]
      omega

/-- A run that is busy has been busy all along: an encoder that is not busy asks for nothing more. -/
theorem busy_of_later_busy {e : Environment} {k j : Nat} (h : runWith (k + j) e s = .next t) (ht : t.busy = true) :
    ∃ u, runWith k e s = .next u ∧ u.busy = true := by
  induction k generalizing e s with
  | zero =>
    refine ⟨_, rfl, ?_⟩
    by_contra hidle
    rw [runWith_of_no_answer (answer_eq_none_of_not_busy (Bool.not_eq_true _ ▸ hidle))] at h
    cases h
    exact hidle ht
  | succ k ih =>
    rw [Nat.add_right_comm, runWith] at h
    rw [runWith]
    cases ha : e.answer s with
    | none =>
      rw [ha] at h
      cases h
      exact ⟨_, rfl, ht⟩
    | some wordAndRest =>
      rw [ha] at h
      cases hstep : step (s.feedLine (.word wordAndRest.1)) with
      | next u =>
        simp only [hstep] at h ⊢
        exact ih h
      | fault | refused => simp [hstep] at h

end

/-- Settles O52: up to its last terminator the invocation is `leadsTo_lastTerminator`; two more writes end it, and one
write before the end it is busy still, so it is busy throughout (`busy_of_later_busy`). -/
theorem canonicalInvocationWritesItsText : Obligations.CanonicalInvocationWritesItsText := by
  intro s bytes ha hsrc
  have hbegin : StandsAt .read 0 false bytes s.snk (beginInvocation s) := ⟨rfl, rfl, rfl, rfl, hsrc, rfl⟩
  obtain ⟨t, text, writes, ht, htext, hwrites, hrun⟩ := leadsTo_lastTerminator hbegin
  have hend : runWith (2 + (readCount bytes.length + writes)) (canonicalEnvironment bytes) (beginInvocation s) =
      .next (afterTerminator t) := by
    rw [canonicalEnvironment, ← hwrites, Nat.add_comm writes 2, hrun]
    exact runWith_terminator (k := 0) ht.phase rfl
  have hbefore : runWith (1 + (readCount bytes.length + writes)) (canonicalEnvironment bytes) (beginInvocation s) =
      .next (advanceWrite (sinkAccept Config.cr t)) := by
    rw [canonicalEnvironment, ← hwrites, Nat.add_comm writes 2, hrun]
    exact runWith_ack (k := 0) (offered_of_cr ht.phase) rfl
  have hbusy : (advanceWrite (sinkAccept Config.cr t)).busy = true := by
    rw [advanceWrite_cr (by simpa using ht.phase)]
    rfl
  refine ⟨_, exec_start_of_acceptsStart ha, ⟨afterTerminator t, ?_, ?_, ht.eoi, ht.cause, ht.src, ?_, ?_⟩,
    fun k hk => ?_, length_outputText bytes, terminatorCount_eq _⟩
  · rw [← hend]
    congr 1
    omega
  · simp [afterTerminator, ht.eoi]
  · simpa [afterTerminator, ht.eoi] using ht.cnt
  · rw [← htext, ← List.append_assoc, ← ht.snk]
    rfl
  · have hlater : 1 + (readCount bytes.length + writes) = k + (1 + readCount bytes.length + writes - k) := by omega
    rw [hlater] at hbefore
    exact busy_of_later_busy hbefore hbusy

end Sys2Proof.Proofs
end

section
/-! Proofs of the statements about the failures (spec/60_exceptions.md): how FAILED is entered and left, and what a
failed write leaves in the sink. -/

namespace Sys2Proof.Proofs

open Sys2Proof Sys2Proof.Machine

/-! ### Into FAILED and out of it (R136, R138) -/

section
variable {s t : State} {i : Instr}

/-- FAILED is entered by a failed read or a failed write, and by no other operation (R136). -/
theorem raiseFailure_of_entering_failed (h : exec i s = .next t) (hs : s.phase ≠ .failed) (ht : t.phase = .failed) :
    t = raiseFailure .readFailure (loseBytes s) ∨ ∃ c, t = raiseFailure .writeFailure (mayAppend c s) := by
  cases transfer_of_exec h with
  | rdfail => exact .inl rfl
  | wfail c => exact .inr ⟨c, rfl⟩
  | still _ _ _ hsame =>
    obtain ⟨⟨-, -, -, -, -, -, hphase, -⟩, -⟩ := hsame
    exact absurd (hphase.symm.trans ht) hs
  | nextChar => exact absurd ht hs
  | groupDone => cases hl : lineGoesOn s.cnt s.eoi <;> simp [hl] at ht
  | start | chunk | endInput | crDone | lastLine | nextLine => simp at ht

/-- In FAILED no request is out and no character on offer, so of the operations only START leads on (R138). -/
theorem start_of_leaving_failed (h : exec i s = .next t) (hs : s.phase = .failed) (ht : t.phase ≠ .failed) :
    i = .start ∧ t = beginInvocation s := by
  cases transfer_of_exec h with
  | start => exact ⟨rfl, rfl⟩
  | still _ _ _ hsame =>
    obtain ⟨⟨-, -, -, -, -, -, hphase, -⟩, -⟩ := hsame
    exact absurd (hphase.trans hs) ht
  | rdfail | wfail => exact absurd rfl ht
  | chunk _ _ _ _ _ _ hp | endInput hp | nextChar _ hp | groupDone _ hp | crDone _ hp | lastLine _ hp
  | nextLine _ hp => simp [hs] at hp

/-- In FAILED the block reports the failure and drives no port. -/
theorem outputs_of_failed (hs : s.phase = .failed) :
    s.failOut = true ∧ s.busy = false ∧ s.doneOut = false ∧ s.rdreq = false ∧ s.offered = none := by
  refine ⟨failOut_iff.mpr hs, ?_, ?_, rdreq_false_iff.mpr (by simp [hs]), offered_eq_none_iff.mpr (by simp [hs])⟩
  · simp [← Bool.not_eq_true, busy_iff, hs]
  · simp [← Bool.not_eq_true, doneOut_iff, hs]

end

/-- Settles O29: each of the two entries is `raiseFailure` on a state in which only the environment has changed. -/
theorem failureEntrySavesOnlyCause : Obligations.FailureEntrySavesOnlyCause := by
  refine ⟨fun i s t h hs ht => ?_, fun s => outputs_of_failed⟩
  rcases raiseFailure_of_entering_failed h hs ht with rfl | ⟨c, rfl⟩
  · exact ⟨.inl rfl, (sameMachine_refl _).1⟩
  · exact ⟨.inr rfl, (sameMachine_refl _).1⟩

/-- Settles O30: a reset leads to IDLE, the host's lines keep PHASE, and of the words only the command 1 decodes to the
START that leads on (`start_of_leaving_failed`). -/
theorem onlyStartAndResetLeaveFailed : Obligations.OnlyStartAndResetLeaveFailed := by
  intro l s t h hs ht
  rcases runLine_next_cases h with
    ⟨rfl, rfl⟩ | ⟨b, -, rfl⟩ | ⟨b, -, rfl⟩ | ⟨w, i, rfl, hdecode, hexec⟩ | ⟨w, r, -, -, rfl⟩
  · exact .inl ⟨rfl, rfl⟩
  · exact absurd hs ht
  · exact absurd hs ht
  · obtain ⟨rfl, rfl⟩ := start_of_leaving_failed hexec hs ht
    exact .inr ⟨by rw [eq_command_of_decode_start hdecode], rfl, rfl⟩
  · exact absurd hs ht

/-! ### What a failed write leaves in the sink (R137) -/

section
variable {s t : State} {e : Environment} {c : Char8} {a : WWord} {n k w : Nat}

/-- What the first transaction of a run can be: none, an answered read, or an answered write. -/
theorem runWith_succ_cases (h : runWith (n + 1) e s = .next t) :
    t = s ∨
    (∃ a rest u, s.phase = .read ∧ e.reads = a :: rest ∧ exec (decodeReadResponse a) s = .next u ∧
      runWith n { e with reads := rest } u = .next t) ∨
    (∃ c a rest u, s.offered = some c ∧ e.writes = a :: rest ∧ exec (decodeWriteResponse a) s = .next u ∧
      runWith n { e with writes := rest } u = .next t) := by
  have hwaits (ha : e.answer s = none) : t = s := by
    rw [runWith_of_no_answer ha] at h
    exact (Host.Outcome.next.inj h).symm
  by_cases hp : s.phase = .read
  · cases he : e.reads with
    | nil => exact .inl (hwaits (answer_eq_none_of_no_reads hp he))
    | cons a rest =>
      obtain ⟨u, hexec⟩ := exists_next_of_readResponse (decodeReadResponse_isReadResponse a) hp
      exact .inr (.inl ⟨a, rest, u, hp, rfl, hexec, (runWith_read hp he hexec).symm.trans h⟩)
  · cases ho : s.offered with
    | none => exact .inl (hwaits (by simp [Environment.answer, rdreq_false_iff.mpr hp, ho]))
    | some c =>
      cases he : e.writes with
      | nil => exact .inl (hwaits (answer_eq_none_of_no_writes ho he))
      | cons a rest =>
        obtain ⟨u, hexec⟩ := exists_next_of_writeResponse (decodeWriteResponse_isWriteResponse a)
          (Option.isSome_iff_exists.mpr ⟨c, ho⟩)
        exact .inr (.inr ⟨c, a, rest, u, rfl, rfl, hexec, (runWith_write ho he hexec).symm.trans h⟩)

theorem snk_prefix_of_exec {i : Instr} (h : exec i s = .next t) : s.snk <+: t.snk := by
  rcases exec_snk_cases h with ht | ⟨c, -, ht⟩ <;> simp [ht]

/-- While a read is requested no character is on offer, and the sink takes none. -/
theorem snk_eq_of_exec_in_read {i : Instr} (hp : s.phase = .read) (h : exec i s = .next t) : t.snk = s.snk := by
  rcases exec_snk_cases h with ht | ⟨c, ho, -⟩
  · exact ht
  · simp [State.offered, hp] at ho

/-- A run only ever adds to the sink. -/
theorem snk_prefix_of_runWith (h : runWith n e s = .next t) : s.snk <+: t.snk := by
  induction n generalizing e s with
  | zero =>
    cases h
    exact List.prefix_rfl
  | succ n ih =>
    rcases runWith_succ_cases h with rfl | ⟨a, rest, u, -, -, hexec, hrun⟩ | ⟨c, a, rest, u, -, -, hexec, hrun⟩
    · exact List.prefix_rfl
    · exact (snk_prefix_of_exec hexec).trans (ih hrun)
    · exact (snk_prefix_of_exec hexec).trans (ih hrun)

/-- What stands in an all-accepting sink's answers is a WACK, and more of them. -/
theorem ack_of_ackAll_eq_cons {rest : List WWord} (h : ackAll w = a :: rest) : a = 0 ∧ ∃ w', rest = ackAll w' := by
  cases w with
  | zero => cases h
  | succ w =>
    cases h
    exact ⟨rfl, w, rfl⟩

/-- A failed write is the run's last transaction. -/
theorem runWith_wfail {rest : List WWord} (ho : s.offered = some c) (he : e.writes = 1 :: rest) :
    runWith (n + 1) e s = .next (raiseFailure .writeFailure (mayAppend c s)) :=
  (runWith_write ho he (exec_wfail_eq_next.mpr ⟨c, ho, rfl⟩)).trans
    (runWith_of_no_answer (answer_eq_none_of_not_busy rfl))

/-- An invocation has ended in `t` by a failed write: where `text` is what the sink would have come to hold, it has the
first `k` characters of that and perhaps the next, the one whose write failed (R137, U3). -/
structure WriteFailedAt (text : List Char8) (k : Nat) (t : State) : Prop where
  phase : t.phase = .failed
  cause : t.cause = .writeFailure
  snk : t.snk = text.take k ∨ t.snk = text.take (k + 1)

theorem writeFailedAt_of_wfail {text : List Char8} (h : s.snk ++ [c] <+: text) :
    WriteFailedAt text s.snk.length (raiseFailure .writeFailure (mayAppend c s)) := by
  have hbefore : text.take s.snk.length = s.snk :=
    (List.prefix_iff_eq_take.mp ((List.prefix_append s.snk [c]).trans h)).symm
  have hafter : text.take (s.snk.length + 1) = s.snk ++ [c] := by simpa using (List.prefix_iff_eq_take.mp h).symm
  refine ⟨rfl, rfl, ?_⟩
  rw [hbefore, hafter]
  exact mayAppend_snk_cases c s

/-- Where a run with every write accepted leads to `t`, the run whose write `k` fails is the same up to that write,
so its sink holds the beginning of what `t` holds. -/
theorem writeFailedAt_of_runWith_ackAll {reads : List RWord}
    (h : runWith n { reads := reads, writes := ackAll w } s = .next t) (hk : s.snk.length + k < t.snk.length) :
    ∃ u, runWith (reads.length + k + 1) { reads := reads, writes := failWrite k } s = .next u ∧
      WriteFailedAt t.snk (s.snk.length + k) u := by
  induction n generalizing s reads w k with
  | zero =>
    cases h
    omega
  | succ n ih =>
    rcases runWith_succ_cases h with rfl | ⟨a, rest, u, hp, hr, hexec, hrun⟩ | ⟨-, a, rest, u, -, hw, hexec, hrun⟩
    · omega
    · obtain rfl : reads = a :: rest := hr
      rw [← snk_eq_of_exec_in_read hp hexec] at hk ⊢
      obtain ⟨v, hv, hfailed⟩ := ih hrun hk
      refine ⟨v, ?_, hfailed⟩
      rw [List.length_cons, Nat.add_right_comm _ 1 k, runWith_read hp rfl hexec, hv]
    · obtain ⟨rfl, w', rfl⟩ := ack_of_ackAll_eq_cons hw
      obtain ⟨c, ho, rfl⟩ := exec_wack_eq_next.mp (show exec .wack s = .next u from hexec)
      cases k with
      | zero => exact ⟨_, runWith_wfail ho rfl, writeFailedAt_of_wfail (by simpa using snk_prefix_of_runWith hrun)⟩
      | succ k =>
        have hlength : (advanceWrite (sinkAccept c s)).snk.length + k = s.snk.length + (k + 1) := by
          simp [Nat.add_assoc, Nat.add_comm 1 k]
        rw [← hlength] at hk ⊢
        obtain ⟨v, hv, hfailed⟩ := ih hrun hk
        exact ⟨v, (runWith_ack ho rfl).trans hv, hfailed⟩

end

/-- Settles O53: the invocation of O52 adds the whole text to the sink, and the failing one follows it up to the failing
write (`writeFailedAt_of_runWith_ackAll`). -/
theorem failedWriteLeavesAPrefix : Obligations.FailedWriteLeavesAPrefix := by
  intro s bytes k ha hsrc hk
  obtain ⟨t0, hstart, ⟨t, hrun, -, -, -, -, -, hsnk⟩, -, hlength, -⟩ :=
    canonicalInvocationWritesItsText s bytes ha hsrc
  have hbegin : t0.snk = s.snk := snk_eq_of_not_writeResponse rfl hstart
  obtain ⟨u, hu, hphase, hcause, hprefix⟩ := writeFailedAt_of_runWith_ackAll (k := k) hrun
    (by rw [hsnk, hbegin, List.length_append, hlength]; omega)
  rw [length_feed] at hu
  rw [hsnk, hbegin, Nat.add_assoc, List.take_length_add_append, List.take_length_add_append] at hprefix
  exact ⟨t0, u, hstart, hu, hphase, hcause, hprefix⟩

end Sys2Proof.Proofs
end

section
/-! Proofs of the statements about the reset, the start-up and the hazards (spec/70_reset_and_hazards.md): what the reset
event leaves, a step without an answer, and the host attaching a stream. -/

namespace Sys2Proof.Proofs

open Sys2Proof Sys2Proof.Machine

/-! ### The reset event (R150, R151) -/

@[simp] theorem resetEvent_script (s : State) : (resetEvent s).script = s.script := by
  rw [resetEvent, resetRegisters_script, withdraw_script]

/-- In IDLE the encoder requests no read, offers no character and signals nothing (R19, R150). -/
theorem silent_of_idle {s : State} (hp : s.phase = .idle) :
    s.busy = false ∧ s.doneOut = false ∧ s.failOut = false ∧ s.rdreq = false ∧ s.offered = none := by
  refine ⟨?_, ?_, ?_, rdreq_false_iff.mpr (by simp [hp]), offered_eq_none_iff.mpr (by simp [hp])⟩
  · simp [← Bool.not_eq_true, busy_iff, hp]
  · simp [← Bool.not_eq_true, doneOut_iff, hp]
  · simp [← Bool.not_eq_true, failOut_iff, hp]

/-- Settles O37: the reset event gives the registers the values of R24, in IDLE the encoder is silent, and the streams
change as under any line that attaches none (O43) and by the withdrawn write (`resetEvent_snk_cases`). -/
theorem resetAbandonsTheInvocation : Obligations.ResetAbandonsTheInvocation := by
  intro s rest hscript
  obtain ⟨hbusy, hdone, hfail, hrdreq, hoffered⟩ := silent_of_idle (s := resetEvent { s with script := rest }) rfl
  obtain ⟨hsuffix, hkept⟩ := sourceIsConsumedFromItsFront .reset { s with script := rest } _ rfl rfl
  exact ⟨_, step_cons hscript, resetEvent_script _, rfl, rfl, rfl, rfl, hbusy, hdone, hfail, hrdreq, hoffered,
    hsuffix, fun hp => hkept (rdreq_false_iff.mpr hp), resetEvent_snk_cases _⟩

/-! ### Waiting and attaching (R153, R156) -/

/-- Settles O47: with an empty script there is no line to take (`fetchLine_nil`). -/
theorem encoderWaitsForItsEnvironment : Obligations.EncoderWaitsForItsEnvironment := by
  intro s hscript
  rw [step, fetchLine_nil hscript]

/-- Settles O49: the step runs the attachment line (`step_cons`), whose effect is the new stream. -/
theorem attachingChangesOnlyTheStream : Obligations.AttachingChangesOnlyTheStream := by
  intro s rest bytes
  exact ⟨fun hsource => step_cons hsource, fun hsink => step_cons hsink⟩

end Sys2Proof.Proofs
end
